-- ==== Sys2Proof/Word.lean ====
section
/-! DEFINITION. The plain value types of WSENC: a 32-bit PackedWord or register, a 16-bit instruction
word, an 8-bit colour channel, and the pixel triple (spec/00_scope.md section 5 and glossary). All values
are unsigned; bit 0 is the least significant bit. -/

namespace Sys2Proof

/-- A 32-bit register value, PackedWord or OSR content (spec/00_scope.md R6, WORD_BITS = 32). -/
abbrev Word := BitVec 32

/-- A 16-bit micro-instruction word (spec/30_encoding.md R60). -/
abbrev Half := BitVec 16

/-- An 8-bit colour channel (spec/00_scope.md glossary, Pixel). -/
abbrev Byte := BitVec 8

/-- The source's Pixel, "an ordered triple of 8-bit channel values `(r, g, b)`" (spec/00_scope.md glossary). -/
structure Pixel where
  r : Byte
  g : Byte
  b : Byte
deriving DecidableEq, Repr

/-- The three channels of a colour, in the order the pixel triple names them. -/
inductive Channel where
  | r | g | b
deriving DecidableEq, Repr

end Sys2Proof
end

