-- ==== Sys2Proof/Config.lean ====
section
/-! DEFINITION. The configuration record of spec/00_scope.md R6 with the values this hardware takes, the two
parameters the spec leaves OPEN, and the free values: constants without a body, so that nothing proved
about the model can rest on a value of them. -/

namespace Sys2Proof

/-- A non-negative exact rational `num / den` (spec/00_scope.md R6: BASE and DARKEN are exact rationals). -/
structure Frac where
  num : Nat
  den : Nat
deriving DecidableEq, Repr

/-- The fraction is the 8-bit code `code` as a gamma-encoded channel, `code / 255` (spec/44_color_engine.md R186). -/
def Frac.isCode (f : Frac) (code : Byte) : Prop := f.num * 255 = code.toNat * f.den

/-- SHIFT_DIR, the direction the OSR shifts. Fixed: R6 admits one, most significant bit first. -/
inductive ShiftDir where
  | msbFirst
deriving DecidableEq, Repr

/-- The bit of a word that leaves first. -/
def ShiftDir.nextBit : ShiftDir → Word → Bool
  | .msbFirst, w => w.msb

/-- A word after one bit has left it; 0 enters at the other end. -/
def ShiftDir.shift : ShiftDir → Word → Word
  | .msbFirst, w => w <<< 1

/-- The implementation parameters of spec/00_scope.md R6, one record, which the state carries (`State.config`).
F_SYS is the run-time register SYSCLK; CYCLES_PER_BIT is `Config.cyclesPerBit`. WORD_BITS, IMEM_SIZE,
DIV_FRAC_BITS and DIV_INT_BITS admit one value each, which is also the width of the types they size. -/
structure Config where
  /-- T1, start-high duration in ticks. -/
  t1 : Nat
  /-- T2, data-phase duration in ticks. -/
  t2 : Nat
  /-- T3, stop-low duration in ticks. -/
  t3 : Nat
  /-- TARGET_KHZ, protocol bit rate in kHz. -/
  targetKhz : Nat
  /-- WORD_BITS, width of a PackedWord and of the OSR. -/
  wordBits : Nat
  /-- PULL_THRESH, bits shifted out of a word before the next word is taken. -/
  pullThresh : Nat
  /-- SHIFT_DIR, direction the OSR shifts. -/
  shiftDir : ShiftDir
  /-- N_LEDS, pixels in a frame and entries in the palette. -/
  nLeds : Nat
  /-- BASE, red component of the base colour. -/
  baseR : Frac
  /-- BASE, green component. -/
  baseG : Frac
  /-- BASE, blue component. -/
  baseB : Frac
  /-- DARKEN, lightness scale factor. -/
  darken : Frac
  /-- FIFO_DEPTH, TX FIFO capacity in words. -/
  fifoDepth : Nat
  /-- IMEM_SIZE, instruction memory entries. -/
  imemSize : Nat
  /-- DIV_FRAC_BITS, fractional bits of the divider. -/
  divFracBits : Nat
  /-- DIV_INT_BITS, integer bits of the divider. -/
  divIntBits : Nat
  /-- COLOR_EPS, bound on the colour datapath's error in units of 1/65535. -/
  colorEps : Nat
  /-- PAL_LATENCY, clk_sys cycles PALGEN takes (OPEN, at least 1). -/
  palLatency : Nat
  /-- T_LATCH, low time the LEDs need between frames (OPEN; a property of the LEDs that no rule of the
  machine reads, spec/92_eei_decisions.md D29). -/
  tLatch : Nat
deriving DecidableEq, Repr

namespace Config

/-- CYCLES_PER_BIT = T1 + T2 + T3 (spec/00_scope.md R6; spec/41_clock_configurator.md R121). -/
def cyclesPerBit (c : Config) : Nat := c.t1 + c.t2 + c.t3

/-- A fraction in the closed unit interval. -/
def fracInUnit (f : Frac) : Bool := decide (0 < f.den) && decide (f.num ≤ f.den)

/-- The legal ranges of spec/00_scope.md R6. -/
def legal (c : Config) : Bool :=
  decide (1 ≤ c.t1) && decide (c.t1 ≤ 16) && decide (1 ≤ c.t2) && decide (c.t2 ≤ 16)
  && decide (1 ≤ c.t3) && decide (c.t3 ≤ 16)
  && decide (c.targetKhz = 800) && decide (c.wordBits = 32) && decide (c.pullThresh = 24)
  && decide (1 ≤ c.nLeds) && decide (c.nLeds ≤ 128)
  && fracInUnit c.baseR && fracInUnit c.baseG && fracInUnit c.baseB
  && fracInUnit c.darken && decide (0 < c.darken.num)
  && decide (1 ≤ c.fifoDepth) && decide (c.fifoDepth ≤ 15)
  && decide (c.imemSize = 32) && decide (c.divFracBits = 8) && decide (c.divIntBits = 16)
  && decide (c.colorEps ≤ 9) && decide (1 ≤ c.palLatency)

/-- FREE. PAL_LATENCY less one: the spec leaves the latency OPEN, "finite, at least 1"
(spec/92_eei_decisions.md D26; log entry 7). -/
opaque openPalLatency : Nat

/-- FREE. T_LATCH, OPEN with no constraint (spec/92_eei_decisions.md D29; log entry 7). -/
opaque openTLatch : Nat

/-- FREE. The value of X between the n-th reset and the first `OUT X, 1` that completes after it: "one
unknown bit, fixed until first written" (spec/93_implementation_defined.md U3; log entry 3). -/
opaque freeX : Nat → Bool

/-- FREE. What IMEM word `a` holds after the n-th reset until it is written: "an unknown 16-bit value,
fixed until written" (spec/93_implementation_defined.md U4; log entry 4). -/
opaque freeImem : Nat → Nat → Half

/-- FREE. What the n-th read of an unspecified PAL entry returns: "any value per read"
(spec/93_implementation_defined.md U5; log entry 5). -/
opaque freePal : Nat → BitVec 24

/-- FREE. How the colour datapath of an implementation with these parameters chooses, for palette colour `k` and
channel `ch`, among the LIN16 values its contract allows (spec/44_color_engine.md R181, R188; log entry 6). -/
opaque freeLin16 : Config → Nat → Channel → Nat

end Config

/-- The values this hardware takes (spec/00_scope.md R6, column "value"). -/
def wsenc : Config where
  t1 := 2
  t2 := 5
  t3 := 3
  targetKhz := 800
  wordBits := 32
  pullThresh := 24
  shiftDir := .msbFirst
  nLeds := 12
  baseR := ⟨4, 5⟩
  baseG := ⟨3, 10⟩
  baseB := ⟨3, 10⟩
  darken := ⟨9, 10⟩
  fifoDepth := 8
  imemSize := 32
  divFracBits := 8
  divIntBits := 16
  colorEps := 4
  palLatency := Config.openPalLatency + 1
  tLatch := Config.openTLatch

end Sys2Proof
end

