-- ==== Sys2Proof/Syntax.lean ====
section
/-! DEFINITION. The syntax of WSENC: one constructor per row of spec/opcode_table.json (5 micro-instructions
of ENC and 19 host operations), the host access that carries a host operation, and the two code spaces
they live in. -/

namespace Sys2Proof

/-- One host access, the tuple `(h_write, h_addr, h_wdata)` presented in a cycle with `h_valid = 1`
(spec/20_memory.md R42, spec/30_encoding.md R69). -/
structure HostAccess where
  write : Bool
  addr : Byte
  wdata : Word
deriving DecidableEq, Repr

/-- The two code spaces: a 16-bit word fetched from IMEM (spec/30_encoding.md R60) and a host access. -/
inductive Code where
  | micro (w : Half)
  | access (a : HostAccess)
deriving DecidableEq, Repr

/-- The instructions and operations of WSENC. Micro-instructions carry SIDE and DELAY
(spec/30_encoding.md R62, R74); host writes carry the written word `v`. -/
inductive Instr where
  /-- `JMP addr` (R88). -/
  | jmp (side : Bool) (delay : BitVec 4) (addr : BitVec 5)
  /-- `JMP !X, addr` (R89). -/
  | jmpNotX (side : Bool) (delay : BitVec 4) (addr : BitVec 5)
  /-- `OUT X, 1` (R86). -/
  | outX (side : Bool) (delay : BitVec 4)
  /-- `NOP` (R90). -/
  | nop (side : Bool) (delay : BitVec 4)
  /-- `SET PINDIRS, d` (R85). -/
  | setPindirs (d : Bool) (side : Bool) (delay : BitVec 4)
  /-- `CTRL.W v` (R135). -/
  | ctrlW (v : Word)
  /-- `CTRL.R` (R136). -/
  | ctrlR
  /-- `STAT.R` (R137). -/
  | statR
  /-- `DEBUG.R` (R138). -/
  | debugR
  /-- `DEBUG.W v` (R139). -/
  | debugW (v : Word)
  /-- `FAULT.R` (R140). -/
  | faultR
  /-- `SYSCLK.W v` (R141). -/
  | sysclkW (v : Word)
  /-- `SYSCLK.R` (R142). -/
  | sysclkR
  /-- `CLKDIV.R` (R143). -/
  | clkdivR
  /-- `CLKCFG.W v` (R144, R111). -/
  | clkcfgW (v : Word)
  /-- `WRAP.W v` (R145). -/
  | wrapW (v : Word)
  /-- `WRAP.R` (R146). -/
  | wrapR
  /-- `TXF.W w` (R147). -/
  | txfW (v : Word)
  /-- `PIXPUSH.W v` (R148). -/
  | pixpushW (v : Word)
  /-- `CLAIM.R` (R149). -/
  | claimR
  /-- `PALGEN.W v` (R150, R166). -/
  | palgenW (v : Word)
  /-- `ADDR.R` (R151). -/
  | addrR
  /-- `IMEM.W i, v` (R152). -/
  | imemW (i : BitVec 5) (v : Word)
  /-- `PAL.R k` (R153). -/
  | palR (k : BitVec 7)
deriving DecidableEq, Repr

end Sys2Proof
end

