-- ==== Sys2Proof/WellFormed.lean ====
section
/-! DEFINITION. Which terms of `Instr` are instructions of the hardware. Every operand is a bit vector of its
field's width, so the one check left is the palette index: `PAL.R k` exists for `k < N_LEDS`
(spec/30_encoding.md R69, spec/43_host_operations.md R153). -/

namespace Sys2Proof

/-- The palette index names one of the N_LEDS entries (spec/30_encoding.md R69). -/
def paletteIndexOk (c : Config) (k : BitVec 7) : Bool := decide (k.toNat < c.nLeds)

/-- Well-formed instructions of the hardware with parameters `c`: those some code of it stands for. -/
def Instr.wellFormed (c : Config) : Instr → Bool
  | .jmp _ _ _ => true
  | .jmpNotX _ _ _ => true
  | .outX _ _ => true
  | .nop _ _ => true
  | .setPindirs _ _ _ => true
  | .ctrlW _ => true
  | .ctrlR => true
  | .statR => true
  | .debugR => true
  | .debugW _ => true
  | .faultR => true
  | .sysclkW _ => true
  | .sysclkR => true
  | .clkdivR => true
  | .clkcfgW _ => true
  | .wrapW _ => true
  | .wrapR => true
  | .txfW _ => true
  | .pixpushW _ => true
  | .claimR => true
  | .palgenW _ => true
  | .addrR => true
  | .imemW _ _ => true
  | .palR k => paletteIndexOk c k

end Sys2Proof
end

