-- ==== Sys2Proof/Decode.lean ====
section
/-! DEFINITION. The decoder and the encoder of both code spaces: micro-instruction words by the mask and
match rows of spec/30_encoding.md R67, host accesses by the patterns of R69, where N_LEDS bounds the PAL
addresses. Decoding is total and rejects by name. -/

namespace Sys2Proof

/-- Why a code stands for no instruction of the table. -/
inductive Reject where
  /-- A reserved micro-instruction word (spec/30_encoding.md R68): fetching it raises fault code 1. -/
  | illegalWord
  /-- A host access to a reserved address, palette indices `k ≥ N_LEDS` among them (spec/20_memory.md R44,
  R45): a read returns 0, a write is ignored. -/
  | reservedAddress
  /-- A read of a write-only register (R45): it returns 0. -/
  | readOfWriteOnly
  /-- A write to a read-only register (R45): it is ignored. -/
  | writeOfReadOnly
deriving DecidableEq, Repr

/-- The SIDE field, bit 12 (spec/30_encoding.md R61). -/
def sideField (w : Half) : Bool := w.getLsbD 12

/-- The DELAY field, bits 11..8 (R61). -/
def delayField (w : Half) : BitVec 4 := w.extractLsb' 8 4

/-- The ADDR field of format J, bits 4..0 (R63). -/
def addrField (w : Half) : BitVec 5 := w.extractLsb' 0 5

/-- `decode` of spec/30_encoding.md R67 for a 16-bit word: the five mask and match rows, anything else
illegal. -/
def decodeMicro (w : Half) : Except Reject Instr :=
  if w &&& 0xE0E0#16 = 0x0000#16 then .ok (.jmp (sideField w) (delayField w) (addrField w))
  else if w &&& 0xE0E0#16 = 0x0020#16 then .ok (.jmpNotX (sideField w) (delayField w) (addrField w))
  else if w &&& 0xE0FF#16 = 0x6021#16 then .ok (.outX (sideField w) (delayField w))
  else if w &&& 0xE0FF#16 = 0xA042#16 then .ok (.nop (sideField w) (delayField w))
  else if w &&& 0xE0FE#16 = 0xE080#16 then
    .ok (.setPindirs (w.getLsbD 0) (sideField w) (delayField w))
  else .error .illegalWord

/-- Host writes by address (spec/30_encoding.md R69, spec/20_memory.md R44). -/
def decodeWrite (c : Config) (addr : Byte) (v : Word) : Except Reject Instr :=
  if addr = 0x00#8 then .ok (.ctrlW v)
  else if addr = 0x02#8 then .ok (.debugW v)
  else if addr = 0x04#8 then .ok (.sysclkW v)
  else if addr = 0x06#8 then .ok (.clkcfgW v)
  else if addr = 0x07#8 then .ok (.wrapW v)
  else if addr = 0x08#8 then .ok (.txfW v)
  else if addr = 0x09#8 then .ok (.pixpushW v)
  else if addr = 0x0B#8 then .ok (.palgenW v)
  else if addr &&& 0xE0#8 = 0x20#8 then .ok (.imemW (addr.extractLsb' 0 5) v)
  else if addr = 0x01#8 ∨ addr = 0x03#8 ∨ addr = 0x05#8 ∨ addr = 0x0A#8 ∨ addr = 0x0C#8 then
    .error .writeOfReadOnly
  else if addr.getLsbD 7 && paletteIndexOk c (addr.extractLsb' 0 7) then .error .writeOfReadOnly
  else .error .reservedAddress

/-- Host reads by address (spec/30_encoding.md R69, spec/20_memory.md R44). -/
def decodeRead (c : Config) (addr : Byte) : Except Reject Instr :=
  if addr = 0x00#8 then .ok .ctrlR
  else if addr = 0x01#8 then .ok .statR
  else if addr = 0x02#8 then .ok .debugR
  else if addr = 0x03#8 then .ok .faultR
  else if addr = 0x04#8 then .ok .sysclkR
  else if addr = 0x05#8 then .ok .clkdivR
  else if addr = 0x07#8 then .ok .wrapR
  else if addr = 0x0A#8 then .ok .claimR
  else if addr = 0x0C#8 then .ok .addrR
  else if addr.getLsbD 7 && paletteIndexOk c (addr.extractLsb' 0 7) then
    .ok (.palR (addr.extractLsb' 0 7))
  else if addr = 0x06#8 ∨ addr = 0x08#8 ∨ addr = 0x09#8 ∨ addr = 0x0B#8
      ∨ addr &&& 0xE0#8 = 0x20#8 then
    .error .readOfWriteOnly
  else .error .reservedAddress

/-- The host operation an access stands for (spec/30_encoding.md R69); a read ignores `h_wdata`. -/
def decodeAccess (c : Config) (a : HostAccess) : Except Reject Instr :=
  if a.write then decodeWrite c a.addr a.wdata else decodeRead c a.addr

/-- The decoder over both code spaces. -/
def decode (c : Config) : Code → Except Reject Instr
  | .micro w => decodeMicro w
  | .access a => decodeAccess c a

/-- `SIDE << 12 | DELAY << 8`, common to every micro-instruction (spec/30_encoding.md R74). -/
def sideDelayBits (side : Bool) (delay : BitVec 4) : Half :=
  ((BitVec.ofBool side).setWidth 16 <<< 12) ||| (delay.setWidth 16 <<< 8)

/-- A host read of `addr`; its `h_wdata` carries no operand and is encoded as 0. -/
def readAt (addr : Byte) : Code := .access ⟨false, addr, 0⟩

/-- A host write of `v` to `addr`. -/
def writeAt (addr : Byte) (v : Word) : Code := .access ⟨true, addr, v⟩

/-- `encode` of spec/30_encoding.md R74 for the micro-instructions and the patterns of R69 for the host
operations. -/
def encode : Instr → Code
  | .jmp side delay addr => .micro (0x0000#16 ||| sideDelayBits side delay ||| addr.setWidth 16)
  | .jmpNotX side delay addr => .micro (0x0020#16 ||| sideDelayBits side delay ||| addr.setWidth 16)
  | .outX side delay => .micro (0x6021#16 ||| sideDelayBits side delay)
  | .nop side delay => .micro (0xA042#16 ||| sideDelayBits side delay)
  | .setPindirs d side delay =>
    .micro (0xE080#16 ||| sideDelayBits side delay ||| (BitVec.ofBool d).setWidth 16)
  | .ctrlW v => writeAt 0x00#8 v
  | .ctrlR => readAt 0x00#8
  | .statR => readAt 0x01#8
  | .debugR => readAt 0x02#8
  | .debugW v => writeAt 0x02#8 v
  | .faultR => readAt 0x03#8
  | .sysclkW v => writeAt 0x04#8 v
  | .sysclkR => readAt 0x04#8
  | .clkdivR => readAt 0x05#8
  | .clkcfgW v => writeAt 0x06#8 v
  | .wrapW v => writeAt 0x07#8 v
  | .wrapR => readAt 0x07#8
  | .txfW v => writeAt 0x08#8 v
  | .pixpushW v => writeAt 0x09#8 v
  | .claimR => readAt 0x0A#8
  | .palgenW v => writeAt 0x0B#8 v
  | .addrR => readAt 0x0C#8
  | .imemW i v => writeAt (0x20#8 ||| i.setWidth 8) v
  | .palR k => readAt (0x80#8 ||| k.setWidth 8)

/-- The host access whose 9-bit pattern `h_write || h_addr` is the low bits of `w` and whose `h_wdata`
follows above them, bits 40..9 (log entry 9). -/
def tableAccess (w : Nat) : HostAccess :=
  ⟨w.testBit 8, BitVec.ofNat 8 w, BitVec.ofNat 32 (w / 2 ^ 9)⟩

/-- Whether a decoding names an instruction. -/
def isInstr : Except Reject Instr → Bool
  | .ok _ => true
  | .error _ => false

/-- The code a table word stands for. The table's two code spaces overlap once both are written in 16
bits, and the number alone does not say which is meant. A number of another length than 16 bits is a host
access; a 16-bit number below 2^9 that is the pattern of a host operation of the table is that operation,
except 0, which is `jmp 0 side 0` (spec/40_encoder_instructions.md R88); every other 16-bit number is a
micro-instruction word. PRESUMED, log entry 9; no step of the machine uses this reading. -/
def tableCode (nbits w : Nat) : Code :=
  if nbits = 16 then
    if 0 < w ∧ w < 2 ^ 9 ∧ isInstr (decodeAccess wsenc (tableAccess w)) then .access (tableAccess w)
    else .micro (BitVec.ofNat 16 w)
  else .access (tableAccess w)

/-- The instruction the decoder reads from a word numbered as spec/opcode_table.json numbers it. -/
def decodeTableWord (nbits w : Nat) : Option Instr :=
  match decode wsenc (tableCode nbits w) with
  | .ok i => some i
  | .error _ => none

end Sys2Proof
end

