-- ==== Sys2Proof/Machine/State.lean ====
section
/-! DEFINITION. The state of WSENC as plain data (spec/10_state.md), the port cycles that stand for what the
outside world does, the state after reset (R31), and the reasons a step can stop. One step of the model
is one `clk_sys` cycle (spec/20_memory.md R41, spec/92_eei_decisions.md D2). -/

namespace Sys2Proof.Machine

/-- Why the machine stops with a fault: NEVER. WSENC's own faults (spec/60_exceptions.md R201) are
transitions to a halted state, which the host can still read, so they are next states; no rule stops the
machine. No constructor, hence neither safe nor unsafe: nothing raises one. -/
inductive Fault where
deriving DecidableEq, Repr

/-- Why an instruction is refused. -/
inductive Refusal where
  /-- Raised by an arm of `exec` whose instruction has no meaning yet, naming its mnemonic. Safe: the run
  stops where the hardware goes on. No arm of this model raises it. -/
  | notModelled (mnemonic : String)
deriving DecidableEq, Repr

/-- The outcome type of a step or a meaning. -/
abbrev Result (σ : Type) := Host.Outcome σ Fault Refusal

/-- A memory of `w`-bit words as its listed `(address, word)` pairs, addresses strictly rising
(`Memory.wf` in Machine/Ops.lean). An address that is not listed holds no value: it has not been written,
and what a read of it gives is a free value (spec/10_state.md R25, R27; log entries 4 and 5). -/
abbrev Memory (w : Nat) := List (Nat × BitVec w)

/-- The FAULT register (spec/10_state.md R19). -/
structure FaultRecord where
  code : BitVec 4
  fpc : BitVec 5
  fins : Half
deriving DecidableEq, Repr

/-- The three sticky flags of DEBUG (spec/10_state.md R18). -/
structure DebugFlags where
  txstall : Bool
  txover : Bool
  busywr : Bool
deriving DecidableEq, Repr

/-- What the outside presents on the input ports in one cycle (spec/10_state.md R32): `rst_n`, and the host
access if `h_valid = 1`. -/
structure PortCycle where
  rstN : Bool
  access : Option HostAccess
deriving DecidableEq, Repr

/-- A cycle with `rst_n = 1` and `h_valid = 0`. -/
def PortCycle.idle : PortCycle := ⟨true, none⟩

/-- The state of WSENC. -/
structure State where
  /-- The parameter record of this machine (spec/00_scope.md R6). It is configuration and not state of WSENC: no
  cycle changes it, a reset included (log entry 17). -/
  config : Config
  /-- X, the scratch register (R10). -/
  x : Bool
  /-- Whether an `OUT X, 1` has completed since reset; until then X is unwritten (R10, U3). -/
  xWritten : Bool
  /-- ENC's program counter (R12). -/
  pc : BitVec 5
  /-- Ticks ENC still waits before its next fetch (R13). -/
  delayCtr : BitVec 4
  /-- The output shift register (R14). -/
  osr : Word
  /-- Bits shifted out of the OSR since its last refill, 0..32 (R14). -/
  osrCount : BitVec 6
  /-- The pin level, port `ws_out` (R15). -/
  wsOut : Bool
  /-- The pin direction, port `ws_oe` (R15). -/
  wsOe : Bool
  /-- CTRL.EN (R16). -/
  en : Bool
  /-- DEBUG (R18). -/
  dbg : DebugFlags
  /-- FAULT (R19). -/
  fault : FaultRecord
  /-- SYSCLK, the system clock in Hz (R20). -/
  sysclk : Word
  /-- CLKDIV.INT (R21). -/
  clkInt : BitVec 16
  /-- CLKDIV.FRAC (R21). -/
  clkFrac : BitVec 8
  /-- CLK_VALID (R21). -/
  clkValid : Bool
  /-- The tick generator's accumulator, in 1/256 cycles (R22). -/
  acc : BitVec 24
  /-- WRAP.BOTTOM (R23). -/
  wrapBottom : BitVec 5
  /-- WRAP.TOP (R23). -/
  wrapTop : BitVec 5
  /-- OWNED, the single-owner mark (R24). -/
  owned : Bool
  /-- IMEM, 32 words of 16 bits (R25). -/
  imem : Memory 16
  /-- The TX FIFO, oldest word first (R26). -/
  fifo : List Word
  /-- PAL, N_LEDS entries of 24 bits, `r || g || b` (R27). -/
  pal : Memory 24
  /-- PAL_DONE (R27). -/
  palDone : Bool
  /-- PAL_BUSY (R27). -/
  palBusy : Bool
  /-- The hidden counter that measures PAL_LATENCY (R27). -/
  palTimer : Nat
  /-- The input ports in the cycles to come, next cycle first; past its end every cycle is idle (R32). -/
  inputs : List PortCycle
  /-- Port `h_rdata` in the cycle just made: the value read, `none` where the cycle was no read outside
  reset and the port may carry any value (R32, R42, U8). -/
  hRdata : Option Word
  /-- MODEL'S OWN: how many free PAL values have been read (log entry 5). -/
  draws : Nat
  /-- MODEL'S OWN: how many resets there have been, so that each leaves new unknown contents
  (log entries 3 and 4). -/
  resets : Nat
deriving DecidableEq, Repr

/-- The state after reset of the machine with the parameters `c` (spec/10_state.md R31): everything 0 but
`osr_count = 32` and WRAP.TOP = 31; X, IMEM and PAL unspecified, so unwritten. -/
def State.resetOf (c : Config) : State where
  config := c
  x := false
  xWritten := false
  pc := 0
  delayCtr := 0
  osr := 0
  osrCount := 32
  wsOut := false
  wsOe := false
  en := false
  dbg := ⟨false, false, false⟩
  fault := ⟨0, 0, 0⟩
  sysclk := 0
  clkInt := 0
  clkFrac := 0
  clkValid := false
  acc := 0
  wrapBottom := 0
  wrapTop := 31
  owned := false
  imem := []
  fifo := []
  pal := []
  palDone := false
  palBusy := false
  palTimer := 0
  inputs := []
  hRdata := none
  draws := 0
  resets := 0

/-- The state after reset of this hardware (spec/00_scope.md R6, column "value"). -/
def State.reset : State := .resetOf wsenc

end Sys2Proof.Machine
end

