-- ==== Sys2Proof/Machine/Operands.lean ====
section
/-! DEFINITION. The operand forms of WSENC: reading X, the successor address, the fields of written host
words, the register images that host reads return, and the pixel formats with PACK (spec/42). -/

namespace Sys2Proof.Machine

/-- X as `JMP !X` reads it: one unknown bit until an `OUT X, 1` has completed since reset
(spec/10_state.md R10, U3; log entry 3). -/
def State.readX (s : State) : Bool := if s.xWritten then s.x else Config.freeX s.resets

/-- `next_pc` (spec/40_encoder_instructions.md R84); addition on 5 bits is modulo 32. -/
def State.nextPc (s : State) (taken : Bool) (addr : BitVec 5) : BitVec 5 :=
  if taken then addr
  else if s.pc = s.wrapTop then s.wrapBottom
  else s.pc + 1

/-- The OSR is empty: `osr_count >= PULL_THRESH` (spec/10_state.md R14). -/
def State.osrEmpty (s : State) : Bool := decide (s.config.pullThresh ≤ s.osrCount.toNat)

/-- FifoLevel (spec/10_state.md R26). -/
def State.fifoLevel (s : State) : Nat := s.fifo.length

/-- A one-bit register image. -/
def bitImage (b : Bool) : Word := (BitVec.ofBool b).setWidth 32

/-- `v[0]`, the requested EN of `CTRL.W` (spec/43_host_operations.md R135). -/
def enBit (v : Word) : Bool := v.getLsbD 0

/-- `v[4:0]`, WRAP.BOTTOM of a written word (R145). -/
def bottomField (v : Word) : BitVec 5 := v.extractLsb' 0 5

/-- `v[12:8]`, WRAP.TOP of a written word (R145). -/
def topField (v : Word) : BitVec 5 := v.extractLsb' 8 5

/-- `v[15:0]`, the instruction word of `IMEM.W` (R152). -/
def imemField (v : Word) : Half := v.extractLsb' 0 16

/-- The pixel of a word in pixel register format 0x00RRGGBB; bits 31..24 are ignored
(spec/30_encoding.md R70). -/
def pixelOfRegister (v : Word) : Pixel :=
  ⟨v.extractLsb' 16 8, v.extractLsb' 8 8, v.extractLsb' 0 8⟩

/-- A pixel as a PAL entry `r || g || b` (spec/10_state.md R27). -/
def pixelEntry (p : Pixel) : BitVec 24 := p.r ++ p.g ++ p.b

/-- A PAL entry in pixel register format, bits 31..24 zero (R70, spec/43_host_operations.md R153). -/
def entryImage (e : BitVec 24) : Word := e.setWidth 32

/-- PACK: `pack(r, g, b) = (g << 24) | (r << 16) | (b << 8)` (spec/42_pixel_word_codec.md R125). -/
def pack (p : Pixel) : Word :=
  (p.g.setWidth 32 <<< 24) ||| (p.r.setWidth 32 <<< 16) ||| (p.b.setWidth 32 <<< 8)

/-- The inverse of PACK, for test benches only (R131). -/
def unpack (w : Word) : Pixel := ⟨w.extractLsb' 16 8, w.extractLsb' 24 8, w.extractLsb' 8 8⟩

/-- CTRL as read: EN in bit 0 (spec/10_state.md R16). -/
def State.ctrlImage (s : State) : Word := bitImage s.en

/-- FAULT as read: FINS in 31..16, FPC in 12..8, CODE in 3..0 (R19). -/
def State.faultImage (s : State) : Word :=
  s.fault.fins ++ 0#3 ++ s.fault.fpc ++ 0#4 ++ s.fault.code

/-- CLKDIV as read: INT in 31..16, FRAC in 15..8 (R21). -/
def State.clkdivImage (s : State) : Word := s.clkInt ++ s.clkFrac ++ 0#8

/-- WRAP as read: TOP in 12..8, BOTTOM in 4..0 (R23). -/
def State.wrapImage (s : State) : Word := 0#19 ++ s.wrapTop ++ 0#3 ++ s.wrapBottom

/-- ADDR as read: `pc` in bits 4..0 (R12). -/
def State.addrImage (s : State) : Word := s.pc.setWidth 32

/-- The divider `Q = INT * 256 + FRAC` (R21, spec/41_clock_configurator.md R116). -/
def State.dividerQ (s : State) : BitVec 24 := s.clkInt ++ s.clkFrac

end Sys2Proof.Machine
end

