-- ==== Sys2Proof/Machine/Ops.lean ====
section
/-! DEFINITION. The shared operations: memory words, the instruction fetch, fault entry (the one exception
mechanism of WSENC, spec/60_exceptions.md R204), reset, the TX FIFO, the refill of the OSR, and the side
value and completion of a micro-instruction. There is no return from a fault (R205): reset is the only
way out of the halted state. -/

namespace Sys2Proof.Machine

/-! ### Memory words -/

/-- The word listed at address `a`, if it has been written. -/
def Memory.read {w : Nat} : Memory w → Nat → Option (BitVec w)
  | [], _ => none
  | (b, v) :: rest, a => if a = b then some v else Memory.read rest a

/-- Store `v` at address `a`, keeping the addresses strictly rising. -/
def Memory.write {w : Nat} : Memory w → Nat → BitVec w → Memory w
  | [], a, v => [(a, v)]
  | (b, u) :: rest, a, v =>
    if a < b then (a, v) :: (b, u) :: rest
    else if a = b then (a, v) :: rest
    else (b, u) :: Memory.write rest a v

/-- The listed addresses are at least `lo`, strictly rising, and below `size`. -/
def Memory.risingFrom {w : Nat} (size : Nat) : Nat → Memory w → Bool
  | _, [] => true
  | lo, (b, _) :: rest =>
    decide (lo ≤ b) && decide (b < size) && Memory.risingFrom size (b + 1) rest

/-- The canonical form of a memory of `size` words: addresses strictly rising and inside the memory. An
unlisted address holds no value, so no entry can equal what an unlisted address reads as. -/
def Memory.wf {w : Nat} (size : Nat) (m : Memory w) : Bool := Memory.risingFrom size 0 m

/-- ENC's fetch of `IMEM[a]` (spec/40_encoder_instructions.md R82): the word written there, or the unknown
word the last reset left (spec/10_state.md R25, U4; log entry 4). -/
def State.imemWord (s : State) (a : BitVec 5) : Half :=
  match s.imem.read a.toNat with
  | some w => w
  | none => Config.freeImem s.resets a.toNat

/-- The word ENC fetches next, `IMEM[pc]`. -/
def State.fetchWord (s : State) : Half := s.imemWord s.pc

/-! ### Fault entry and reset -/

/-- Fault entry `raise Fault(code)` with record `(fpc, fins)` (spec/60_exceptions.md R204): the first fault
is kept, EN is cleared and the pin is forced low. There is no vector and no other saved state. -/
def State.raiseFault (code : BitVec 4) (fpc : BitVec 5) (fins : Half) (s : State) : State :=
  { s with
    fault := if s.fault.code = 0 then ⟨code, fpc, fins⟩ else s.fault
    en := false
    wsOut := false }

/-- Fault code 1, ILLEGAL_INSTR (spec/60_exceptions.md R202). -/
def State.raiseIllegal (s : State) : State := s.raiseFault 1 s.pc s.fetchWord

/-- Fault code 2, CLOCK_CONFIG (R203): FPC is `pc`, FINS is 0. -/
def State.raiseClockConfig (s : State) : State := s.raiseFault 2 s.pc 0

/-- The effect of a cycle in which `rst_n = 0` is sampled (spec/70_reset_and_hazards.md R225): every state
element takes its reset value. The parameters are no state, the inputs still to come are the outside's, and the model's
own counters are not state of WSENC: a reset leaves new unknown contents (log entries 3 and 4). -/
def State.applyReset (s : State) : State :=
  { State.resetOf s.config with inputs := s.inputs, draws := s.draws, resets := s.resets + 1 }

/-! ### Host port data -/

/-- A read access answers `v` on `h_rdata` in the same cycle (spec/20_memory.md R42). -/
def State.answer (v : Word) (s : State) : State := { s with hRdata := some v }

/-- An access that is no operation of the table (spec/43_host_operations.md R154): a read returns 0, a
write is ignored. -/
def State.ignoredAccess (write : Bool) (s : State) : State := if write then s else s.answer 0

/-! ### TX FIFO -/

/-- `FifoPush(w)` (spec/20_memory.md R47): appended if the start-of-cycle level leaves room, else dropped
with `sticky(DEBUG.TXOVER)`. -/
def State.fifoPush (w : Word) (s : State) : State :=
  if s.fifoLevel < s.config.fifoDepth then { s with fifo := s.fifo ++ [w] }
  else { s with dbg := { s.dbg with txover := true } }

/-- A write to a register that is locked in the current state (spec/43_host_operations.md R157). -/
def State.lockedWrite (s : State) : State := { s with dbg := { s.dbg with busywr := true } }

/-! ### ENC -/

/-- The side value (spec/40_encoder_instructions.md R83). -/
def State.setSide (side : Bool) (s : State) : State := { s with wsOut := side }

/-- Completion of an instruction (R84, R91): the successor address and the delay. -/
def State.complete (taken : Bool) (addr : BitVec 5) (delay : BitVec 4) (s : State) : State :=
  { s with pc := s.nextPc taken addr, delayCtr := delay }

/-- `osr_s` of R87: the OSR after this tick's shift, most significant bit out, 0 in at bit 0. -/
def State.shiftedOsr (shifted : Bool) (s : State) : Word := if shifted then s.config.shiftDir.shift s.osr else s.osr

/-- `cnt_s` of R87: the count after this tick's shift. -/
def State.shiftedCount (shifted : Bool) (s : State) : BitVec 6 :=
  if shifted then s.osrCount + 1 else s.osrCount

/-- `refill(shifted)` (spec/40_encoder_instructions.md R87), at the end of every tick that is not a fault
entry; `s.fifo` is the FIFO at the start of the cycle (spec/20_memory.md R48). -/
def State.refill (shifted : Bool) (s : State) : State :=
  match s.fifo with
  | w :: rest =>
    if s.config.pullThresh ≤ (s.shiftedCount shifted).toNat then
      { s with osr := w, osrCount := 0, fifo := rest }
    else { s with osr := s.shiftedOsr shifted, osrCount := s.shiftedCount shifted }
  | [] => { s with osr := s.shiftedOsr shifted, osrCount := s.shiftedCount shifted }

/-- A delay tick (R81), with the refill R80 evaluates in it. -/
def State.delayTick (s : State) : State := ({ s with delayCtr := s.delayCtr - 1 }).refill false

end Sys2Proof.Machine
end

