-- ==== Sys2Proof/Machine/Flags.lean ====
section
/-! DEFINITION. The status fields and flags: STAT as computed from the state (spec/10_state.md R17), the
sticky DEBUG flags (R18), and the three status outputs (spec/60_exceptions.md R207). No instruction of ENC
reads any of them. -/

namespace Sys2Proof.Machine

/-- STAT.TXFULL. -/
def State.txFull (s : State) : Bool := decide (s.fifoLevel = s.config.fifoDepth)

/-- STAT.TXEMPTY. -/
def State.txEmpty (s : State) : Bool := decide (s.fifoLevel = 0)

/-- Whether a word is the instruction `OUT X, 1`. -/
def isOutX (w : Half) : Bool :=
  match decodeMicro w with
  | .ok (.outX _ _) => true
  | _ => false

/-- STAT.STALLED: EN = 1, no delay pending, `IMEM[pc]` is `OUT X, 1`, and the OSR is empty. -/
def State.stalled (s : State) : Bool :=
  s.en && decide (s.delayCtr = 0) && isOutX s.fetchWord && s.osrEmpty

/-- STAT.HALTED: FAULT.CODE is not 0. -/
def State.halted (s : State) : Bool := decide (s.fault.code ≠ 0)

/-- STAT as read (spec/10_state.md R17), bit 31 down to bit 0. -/
def State.statImage (s : State) : Word :=
  0#16 ++ BitVec.ofBool s.wsOe ++ BitVec.ofBool s.wsOut ++ BitVec.ofBool s.clkValid
    ++ BitVec.ofBool s.owned ++ BitVec.ofBool s.palBusy ++ BitVec.ofBool s.palDone
    ++ BitVec.ofBool s.halted ++ BitVec.ofBool s.stalled ++ BitVec.ofNat 4 s.fifoLevel
    ++ 0#2 ++ BitVec.ofBool s.txEmpty ++ BitVec.ofBool s.txFull

/-- DEBUG as read: TXSTALL, TXOVER, BUSYWR in bits 0, 1, 2 (R18, spec/43_host_operations.md R138). -/
def State.debugImage (s : State) : Word :=
  0#29 ++ BitVec.ofBool s.dbg.busywr ++ BitVec.ofBool s.dbg.txover
    ++ BitVec.ofBool s.dbg.txstall

/-- Write 1 to clear (R18, spec/43_host_operations.md R139): bits 31..3 are ignored. -/
def DebugFlags.clear (v : Word) (d : DebugFlags) : DebugFlags :=
  ⟨d.txstall && !v.getLsbD 0, d.txover && !v.getLsbD 1, d.busywr && !v.getLsbD 2⟩

/-- `if FifoLevel = 0: sticky(DEBUG.TXSTALL)` of a stalling OUT (spec/40_encoder_instructions.md R86). -/
def State.noteStall (s : State) : State :=
  if s.fifoLevel = 0 then { s with dbg := { s.dbg with txstall := true } } else s

/-- Port `tx_dreq`: the FIFO has room (spec/20_memory.md R49). -/
def State.txDreq (s : State) : Bool := decide (s.fifoLevel < s.config.fifoDepth)

/-- Port `pal_done` (spec/60_exceptions.md R207). -/
def State.palDonePort (s : State) : Bool := s.palDone

/-- Port `fault` (R207). -/
def State.faultPort (s : State) : Bool := s.halted

end Sys2Proof.Machine
end

