-- ==== Sys2Proof/Machine/Enc.lean ====
section
/-! DEFINITION. The micro-instructions of ENC (spec/40_encoder_instructions.md section 3), each the whole
effect of one instruction tick: the side value (R83), the instruction's arm of R80, the successor and the
delay if it completes (R84, R91), and the refill (R87). The state a meaning is given stands at the start of
the tick; its `fifo` is the FIFO at the start of the cycle. -/

namespace Sys2Proof.Machine

/-- A micro-instruction that always completes and shifts nothing. -/
def State.instructionTick (side : Bool) (taken : Bool) (addr : BitVec 5) (delay : BitVec 4)
    (s : State) : State :=
  ((s.setSide side).complete taken addr delay).refill false

/-- `JMP addr` (R88): always taken, whatever WRAP says. -/
def execJmp (side : Bool) (delay : BitVec 4) (addr : BitVec 5) (s : State) : Result State :=
  .next (s.instructionTick side true addr delay)

/-- `JMP !X, addr` (R89): taken when X = 0, else to the successor. -/
def execJmpNotX (side : Bool) (delay : BitVec 4) (addr : BitVec 5) (s : State) : Result State :=
  .next (s.instructionTick side (!s.readX) addr delay)

/-- The tick of `OUT X, 1` that stalls (R86): pc, delay_ctr and X keep their values. -/
def State.outStall (side : Bool) (s : State) : State := ((s.setSide side).noteStall).refill false

/-- The tick of `OUT X, 1` that completes (R86): the most significant bit of the OSR goes to X. -/
def State.outShift (side : Bool) (delay : BitVec 4) (s : State) : State :=
  ({ (s.setSide side).complete false 0 delay with x := s.config.shiftDir.nextBit s.osr, xWritten := true }).refill true

/-- `OUT X, 1` (R86). -/
def execOutX (side : Bool) (delay : BitVec 4) (s : State) : Result State :=
  .next (if s.osrEmpty then s.outStall side else s.outShift side delay)

/-- `NOP` (R90): it holds a level for a number of ticks. -/
def execNop (side : Bool) (delay : BitVec 4) (s : State) : Result State :=
  .next (s.instructionTick side false 0 delay)

/-- `SET PINDIRS, d` (R85). -/
def execSetPindirs (d : Bool) (side : Bool) (delay : BitVec 4) (s : State) : Result State :=
  .next ({ s with wsOe := d }.instructionTick side false 0 delay)

/-- The canonical program for timing parameters T1, T2, T3 (R96), words for IMEM[0], IMEM[1], ... -/
def canonicalProgram (t1 t2 t3 : Nat) : List Half :=
  [0xE081#16,
   0x6021#16 ||| BitVec.ofNat 16 ((t3 - 1) * 2 ^ 8),
   0x1024#16 ||| BitVec.ofNat 16 ((t1 - 1) * 2 ^ 8),
   0x1001#16 ||| BitVec.ofNat 16 ((t2 - 1) * 2 ^ 8),
   0xA042#16 ||| BitVec.ofNat 16 ((t2 - 1) * 2 ^ 8)]

end Sys2Proof.Machine
end

