-- ==== Sys2Proof/Machine/Clock.lean ====
section
/-! DEFINITION. CLKDIV: the divider arithmetic of CLKCFG (spec/41_clock_configurator.md R111 to R113) and the
tick generator TICKGEN (R116). -/

namespace Sys2Proof.Machine

/-- `f_khz`, the system clock reduced to kHz by truncation (R112). -/
def khzOf (sysclk : Nat) : Nat := sysclk / 1000

/-- `den = TARGET_KHZ * CYCLES_PER_BIT` (R111). -/
def dividerDen (c : Config) : Nat := c.targetKhz * c.cyclesPerBit

/-- The divider in units of 1/256, truncated (R111). -/
def dividerOf (c : Config) (sysclk : Nat) : Nat := khzOf sysclk * 256 / dividerDen c

/-- The divider is usable: at least 1.0, and its integer part fits 16 bits (R113). -/
def dividerUsable (q : Nat) : Bool := decide (256 ≤ q) && decide (q < 2 ^ 24)

/-- The registers CLKCFG writes when the divider is `q` (R111). -/
def State.loadDivider (q : Nat) (s : State) : State :=
  { s with
    clkInt := BitVec.ofNat 16 (q / 256)
    clkFrac := BitVec.ofNat 8 q
    clkValid := dividerUsable q }

/-- The CLKCFG operation (R111): fault code 2 when the divider is unusable. -/
def State.configureClock (s : State) : State :=
  let q := dividerOf s.config s.sysclk.toNat
  if dividerUsable q then s.loadDivider q else (s.loadDivider q).raiseClockConfig

/-- `tick` of R116: whether a cycle that starts with these EN and `acc` enables ENC. -/
def tickNow (en : Bool) (acc : BitVec 24) : Bool := en && decide (acc.toNat < 256)

/-- `acc` at the end of a cycle (R116). EN = 1 implies `Q >= 256`, so nothing wraps; in a state where that
fails, which no run reaches, the 24-bit sum wraps (log entry 13). -/
def nextAcc (en : Bool) (q acc : BitVec 24) : BitVec 24 :=
  if !en then 0
  else if acc.toNat < 256 then acc + q - 256
  else acc - 256

/-- Whether the cycle that starts in `s` is a tick. -/
def State.isTick (s : State) : Bool := tickNow s.en s.acc

/-- TICKGEN's write in the cycle that starts in `s`. -/
def State.tickgenAcc (s : State) : BitVec 24 := nextAcc s.en s.dividerQ s.acc

end Sys2Proof.Machine
end

