-- ==== Sys2Proof/Machine/Color.lean ====
section
/-! DEFINITION. COLOR (spec/44_color_engine.md): the reference function in fixed point (R168 to R179), the gamut
clamp (R177), the datapath contract (R181), the gamma table (R182, R183), the palette (R185, R188) and the
running of a PALGEN (R166). -/

namespace Sys2Proof.Machine

/-! ### Fixed-point reference function

Real numbers of the reference function are integers in units of 1/10^40 (log entry 11): each operation is
exact up to a few units in the last place. Obligations.Lin16WithinColorEps states the contract of R181
against the reference over the real numbers (Machine/ColorReference.lean). -/

/-- One, in fixed point. -/
def fixOne : Nat := 10 ^ 40

/-- Bitwise search for the largest `r` with `r ^ n ≤ a`, deciding `bits` bits. -/
def rootSearch (n a : Nat) : Nat → Nat → Nat
  | 0, r => r
  | bits + 1, r => rootSearch n a bits (if (r + 2 ^ bits) ^ n ≤ a then r + 2 ^ bits else r)

/-- The integer `n`-th root of `a` for `a < 2 ^ (160 * n)`. -/
def intRoot (n a : Nat) : Nat := rootSearch n a 160 0

/-- Stage 1 (R168): the sRGB transfer function `eotf` of an exact rational in [0, 1]. The power 2.4 is the
fifth root of the twelfth power. -/
def eotfFix (e : Frac) : Nat :=
  if 100000 * e.num ≤ 4045 * e.den then fixOne * e.num * 100 / (1292 * e.den)
  else intRoot 5 (fixOne ^ 5 * (1000 * e.num + 55 * e.den) ^ 12 / (1055 * e.den) ^ 12)

/-- A triple of fixed-point numbers: linear RGB, XYZ or L*a*b*. -/
structure Triple where
  u : Int
  v : Int
  w : Int
deriving DecidableEq, Repr

/-- The base colour in linear light (R168). -/
def baseLinear (c : Config) : Triple := ⟨eotfFix c.baseR, eotfFix c.baseG, eotfFix c.baseB⟩

/-- Stage 2 (R169): linear sRGB to XYZ by the matrix `M`. -/
def rgbToXyz (t : Triple) : Triple :=
  ⟨(4124564 * t.u + 3575761 * t.v + 1804375 * t.w) / 10000000,
   (2126729 * t.u + 7151522 * t.v + 721750 * t.w) / 10000000,
   (193339 * t.u + 1191920 * t.v + 9503041 * t.w) / 10000000⟩

/-- `f` of stage 3 (R170). -/
def labFix (t : Int) : Int :=
  if 216 * fixOne < 24389 * t then intRoot 3 (t.toNat * fixOne ^ 2)
  else (24389 * t / 27 + 16 * fixOne) / 116

/-- Stage 3 (R170): XYZ to L*a*b* relative to the D65 white point. -/
def xyzToLab (t : Triple) : Triple :=
  let fx := labFix (t.u * 100000 / 95047)
  let fy := labFix t.v
  let fz := labFix (t.w * 100000 / 108883)
  ⟨116 * fy - 16 * fixOne, 500 * (fx - fy), 200 * (fy - fz)⟩

/-- Stage 5 (R172): `L' = DARKEN * L`. -/
def darkenLab (d : Frac) (t : Triple) : Triple := { t with u := d.num * t.u / d.den }

/-- `2 * pi` in fixed point. -/
def fixTwoPi : Nat := 62831853071795864769252867665590057683943

/-- The power series of sine and cosine: the sum of every second term `theta ^ i / i!` with alternating
sign, from index `i` on. -/
def trigSeries (theta : Int) : Nat → Nat → Int → Int
  | 0, _, _ => 0
  | fuel + 1, i, term =>
    term + trigSeries theta fuel (i + 2)
      (-(term * theta / fixOne * theta / fixOne / ((i + 1) * (i + 2))))

/-- `theta_k = k * 360 / N_LEDS` degrees, in radians (R173, R179). -/
def hueAngle (n k : Nat) : Int := fixTwoPi * k / n

/-- `cos theta_k` (R179). -/
def hueCos (n k : Nat) : Int := trigSeries (hueAngle n k) 60 0 fixOne

/-- `sin theta_k` (R179). -/
def hueSin (n k : Nat) : Int := trigSeries (hueAngle n k) 60 1 (hueAngle n k)

/-- Stages 4, 6 and 7 in the form of R179: the plane rotation of `(a, b)` by `theta_k`. -/
def rotateHue (n k : Nat) (t : Triple) : Triple :=
  ⟨t.u,
   (t.v * hueCos n k - t.w * hueSin n k) / fixOne,
   (t.v * hueSin n k + t.w * hueCos n k) / fixOne⟩

/-- `finv` of stage 8 (R175). -/
def labInvFix (u : Int) : Int :=
  let cube := u * u / fixOne * u / fixOne
  if 216 * fixOne < 24389 * cube then cube else (116 * u - 16 * fixOne) * 27 / 24389

/-- Stage 8 (R175): L*a*b* to XYZ. -/
def labToXyz (t : Triple) : Triple :=
  let fy := (t.u + 16 * fixOne) / 116
  let fx := fy + t.v / 500
  let fz := fy - t.w / 200
  ⟨95047 * labInvFix fx / 100000, labInvFix fy, 108883 * labInvFix fz / 100000⟩

/-- Stage 9 (R176): XYZ to linear sRGB by the exact inverse of `M`, the adjugate of `10^7 M` over its
determinant. -/
def xyzToRgb (t : Triple) : Triple :=
  let m : Nat → Nat → Int := fun i j =>
    (([4124564, 3575761, 1804375, 2126729, 7151522, 721750, 193339, 1191920, 9503041] : List Int)[3 * i + j]?).getD 0
  let cof : Nat → Nat → Int := fun i j =>
    m ((i + 1) % 3) ((j + 1) % 3) * m ((i + 2) % 3) ((j + 2) % 3)
      - m ((i + 1) % 3) ((j + 2) % 3) * m ((i + 2) % 3) ((j + 1) % 3)
  let det := m 0 0 * cof 0 0 + m 0 1 * cof 0 1 + m 0 2 * cof 0 2
  let row : Nat → Int := fun j =>
    10000000 * (cof 0 j * t.u + cof 1 j * t.v + cof 2 j * t.w) / det
  ⟨row 0, row 1, row 2⟩

/-- `RefLin(k)` in fixed point (R178). -/
def refLinFix (c : Config) (k : Nat) : Triple :=
  xyzToRgb (labToXyz (rotateHue c.nLeds k (darkenLab c.darken (xyzToLab (rgbToXyz (baseLinear c))))))

/-- One channel of a triple that holds linear RGB. -/
def Triple.channel (t : Triple) : Channel → Int
  | .r => t.u
  | .g => t.v
  | .b => t.w

/-- The gamut clamp `clamp01` (R177). -/
def clampFix (v : Int) : Int := max 0 (min fixOne v)

/-- `65535 * RefClamped(k)_c` in fixed point (R177, R181). -/
def refScaledFix (c : Config) (k : Nat) (ch : Channel) : Int :=
  65535 * clampFix ((refLinFix c k).channel ch)

/-! ### The datapath contract -/

/-- The smallest LIN16 the contract of R181 admits: at most COLOR_EPS below the reference. -/
def lin16Low (c : Config) (k : Nat) (ch : Channel) : Nat :=
  (-((c.colorEps * fixOne - refScaledFix c k ch) / fixOne)).toNat

/-- The largest LIN16 the contract of R181 admits: at most COLOR_EPS above the reference. -/
def lin16High (c : Config) (k : Nat) (ch : Channel) : Nat :=
  min 65535 ((refScaledFix c k ch + c.colorEps * fixOne) / fixOne).toNat

/-- How many LIN16 values the contract admits. With COLOR_EPS = 0 there may be none, and no implementation; the
value next above the reference then stands (log entry 6). -/
def lin16Count (c : Config) (k : Nat) (ch : Channel) : Nat :=
  max 1 (lin16High c k ch + 1 - lin16Low c k ch)

/-- `LIN16(k)_c` (R181): a free value among those the contract admits, the same in every PALGEN (R188; log
entry 6). -/
def lin16 (c : Config) (k : Nat) (ch : Channel) : Nat :=
  lin16Low c k ch + Config.freeLin16 c k ch % lin16Count c k ch

/-! ### The exact back end -/

/-- Entries 0 to 63 of GAMMA_LUT (R183). -/
def gammaRows0 : List Nat :=
  [0, 10, 30, 50, 70, 90, 110, 130]
  ++ [150, 170, 189, 209, 230, 253, 276, 301]
  ++ [327, 354, 382, 412, 443, 475, 509, 544]
  ++ [580, 618, 657, 698, 740, 783, 828, 875]
  ++ [923, 972, 1023, 1075, 1129, 1185, 1242, 1300]
  ++ [1360, 1422, 1486, 1551, 1617, 1685, 1755, 1827]
  ++ [1900, 1975, 2052, 2130, 2210, 2292, 2376, 2461]
  ++ [2548, 2637, 2727, 2820, 2914, 3010, 3108, 3208]

/-- Entries 64 to 127 of GAMMA_LUT (R183). -/
def gammaRows1 : List Nat :=
  [3309, 3412, 3518, 3625, 3734, 3844, 3957, 4072]
  ++ [4188, 4307, 4427, 4550, 4674, 4800, 4928, 5059]
  ++ [5191, 5325, 5461, 5599, 5740, 5882, 6026, 6173]
  ++ [6321, 6471, 6624, 6778, 6935, 7094, 7255, 7418]
  ++ [7583, 7750, 7919, 8091, 8265, 8440, 8618, 8798]
  ++ [8981, 9165, 9352, 9541, 9732, 9925, 10121, 10318]
  ++ [10518, 10720, 10925, 11132, 11341, 11552, 11765, 11981]
  ++ [12199, 12420, 12643, 12868, 13095, 13325, 13557, 13791]

/-- Entries 128 to 191 of GAMMA_LUT (R183). -/
def gammaRows2 : List Nat :=
  [14028, 14267, 14508, 14752, 14998, 15247, 15498, 15751]
  ++ [16007, 16265, 16525, 16788, 17054, 17321, 17592, 17864]
  ++ [18139, 18417, 18697, 18980, 19264, 19552, 19842, 20134]
  ++ [20429, 20727, 21027, 21329, 21634, 21942, 22252, 22564]
  ++ [22880, 23197, 23518, 23840, 24166, 24494, 24824, 25158]
  ++ [25493, 25832, 26173, 26516, 26862, 27211, 27563, 27917]
  ++ [28273, 28633, 28995, 29359, 29727, 30097, 30469, 30845]
  ++ [31223, 31603, 31987, 32373, 32762, 33153, 33547, 33944]

/-- Entries 192 to 255 of GAMMA_LUT (R183). -/
def gammaRows3 : List Nat :=
  [34344, 34747, 35152, 35560, 35970, 36384, 36800, 37219]
  ++ [37640, 38065, 38492, 38922, 39355, 39790, 40229, 40670]
  ++ [41114, 41561, 42011, 42463, 42918, 43377, 43838, 44301]
  ++ [44768, 45238, 45710, 46185, 46663, 47144, 47628, 48115]
  ++ [48605, 49097, 49593, 50091, 50592, 51096, 51604, 52114]
  ++ [52627, 53142, 53661, 54183, 54708, 55235, 55766, 56300]
  ++ [56836, 57376, 57918, 58464, 59012, 59564, 60118, 60675]
  ++ [61236, 61799, 62366, 62935, 63508, 64083, 64662, 65244]

/-- GAMMA_LUT, the constant table of 256 16-bit thresholds (spec/10_state.md R28, spec/44_color_engine.md R183). -/
def gammaLut : List Nat := gammaRows0 ++ gammaRows1 ++ gammaRows2 ++ gammaRows3

/-- `GammaEncode(u)` (R182): the largest code whose threshold is at most `u`, that is the number of
thresholds at or below `u`, less one (spec/92_eei_decisions.md D24). -/
def gammaEncode (u : Nat) : Nat := gammaLut.countP (fun t => decide (t ≤ u)) - 1

/-- The pixel of three LIN16 values (R185). -/
def pixelOfLin (lin : Channel → Nat) : Pixel :=
  ⟨BitVec.ofNat 8 (gammaEncode (lin .r)), BitVec.ofNat 8 (gammaEncode (lin .g)),
   BitVec.ofNat 8 (gammaEncode (lin .b))⟩

/-- `Pixel_k` (R185). -/
def palettePixel (c : Config) (k : Nat) : Pixel := pixelOfLin (lin16 c k)

/-- The contents of PAL after a PALGEN of an implementation with these parameters: N_LEDS entries (R166, R185,
R188). -/
def paletteOf (c : Config) : Memory 24 :=
  (List.range c.nLeds).map fun k => (k, pixelEntry (palettePixel c k))

/-- The contents of PAL after a PALGEN with the values this hardware takes. -/
def palette : Memory 24 := paletteOf wsenc

/-! ### The PALGEN operation -/

/-- An accepted `PALGEN.W` (R166). -/
def State.startPalgen (s : State) : State :=
  { s with palBusy := true, palDone := false, palTimer := s.config.palLatency }

/-- A cycle of COLOR with PAL_BUSY = 1 (R166): count down, or write the palette and finish. -/
def State.colorStep (s : State) : State :=
  { s with
    pal := if 1 < s.palTimer then s.pal else paletteOf s.config
    palDone := if 1 < s.palTimer then s.palDone else true
    palBusy := if 1 < s.palTimer then s.palBusy else false
    palTimer := if 1 < s.palTimer then s.palTimer - 1 else 0 }

/-- What `PAL.R k` answers for `k < N_LEDS` (spec/43_host_operations.md R153): the entry once PAL_DONE = 1, else
a free value (U5; log entry 5). -/
def State.palEntry (s : State) (k : Nat) : BitVec 24 :=
  match s.palDone, s.pal.read k with
  | true, some e => e
  | _, _ => Config.freePal s.draws

/-- The counter of free PAL reads advances when the value read was free. -/
def State.palDraws (s : State) (k : Nat) : Nat :=
  match s.palDone, s.pal.read k with
  | true, some _ => s.draws
  | _, _ => s.draws + 1

end Sys2Proof.Machine
end

