-- ==== Sys2Proof/Machine/HostPort.lean ====
section
/-! DEFINITION. The host operations (spec/43_host_operations.md section 1). Each meaning is the whole effect of one
host access on the state as it stands at the start of the cycle; a read leaves its answer on `h_rdata`. -/

namespace Sys2Proof.Machine

/-- `CTRL.W v` as a change of state (R135). -/
def State.writeCtrl (v : Word) (s : State) : State :=
  if !enBit v then { s with en := false }
  else if s.fault.code ≠ 0 then s
  else if !s.clkValid then s.raiseClockConfig
  else { s with en := true }

/-- `CTRL.W v` (R135): fault code 2 if CLK_VALID = 0; refused while halted. -/
def execCtrlW (v : Word) (s : State) : Result State := .next (s.writeCtrl v)

/-- `CTRL.R` (R136). -/
def execCtrlR (s : State) : Result State := .next (s.answer s.ctrlImage)

/-- `STAT.R` (R137). -/
def execStatR (s : State) : Result State := .next (s.answer s.statImage)

/-- `DEBUG.R` (R138). -/
def execDebugR (s : State) : Result State := .next (s.answer s.debugImage)

/-- `DEBUG.W v` (R139). -/
def execDebugW (v : Word) (s : State) : Result State := .next { s with dbg := s.dbg.clear v }

/-- `FAULT.R` (R140). -/
def execFaultR (s : State) : Result State := .next (s.answer s.faultImage)

/-- `SYSCLK.W v` (R141): locked while EN = 1 (R157). -/
def execSysclkW (v : Word) (s : State) : Result State :=
  .next (if s.en then s.lockedWrite else { s with sysclk := v, clkValid := false })

/-- `SYSCLK.R` (R142). -/
def execSysclkR (s : State) : Result State := .next (s.answer s.sysclk)

/-- `CLKDIV.R` (R143). -/
def execClkdivR (s : State) : Result State := .next (s.answer s.clkdivImage)

/-- `CLKCFG.W v` (R144, R111): `v` is ignored; locked while EN = 1 (R157). -/
def execClkcfgW (_v : Word) (s : State) : Result State :=
  .next (if s.en then s.lockedWrite else s.configureClock)

/-- `WRAP.W v` (R145): locked while EN = 1 (R157). -/
def execWrapW (v : Word) (s : State) : Result State :=
  .next (if s.en then s.lockedWrite
    else { s with wrapBottom := bottomField v, wrapTop := topField v })

/-- `WRAP.R` (R146). -/
def execWrapR (s : State) : Result State := .next (s.answer s.wrapImage)

/-- `TXF.W w` (R147): the word enters the FIFO unchanged. -/
def execTxfW (v : Word) (s : State) : Result State := .next (s.fifoPush v)

/-- `PIXPUSH.W v` (R148): the pixel is packed and pushed. -/
def execPixpushW (v : Word) (s : State) : Result State :=
  .next (s.fifoPush (pack (pixelOfRegister v)))

/-- `CLAIM.R` (R149): test and set of OWNED in one cycle. -/
def execClaimR (s : State) : Result State :=
  .next ({ s with owned := true }.answer (bitImage (!s.owned)))

/-- `PALGEN.W v` (R150, R166): `v` is ignored; ignored with BUSYWR while PAL_BUSY = 1 (R157). -/
def execPalgenW (_v : Word) (s : State) : Result State :=
  .next (if s.palBusy then s.lockedWrite else s.startPalgen)

/-- `ADDR.R` (R151). -/
def execAddrR (s : State) : Result State := .next (s.answer s.addrImage)

/-- `IMEM.W i, v` (R152): `v[31:16]` is ignored; locked while EN = 1 (R157). -/
def execImemW (i : BitVec 5) (v : Word) (s : State) : Result State :=
  .next (if s.en then s.lockedWrite
    else { s with imem := s.imem.write i.toNat (imemField v) })

/-- `PAL.R k` (R153): for `k < N_LEDS` the entry in pixel register format, free while PAL_DONE = 0; another
`k` is a reserved address and reads 0 (R154). -/
def execPalR (k : BitVec 7) (s : State) : Result State :=
  .next (if paletteIndexOk s.config k then
      { s with draws := s.palDraws k.toNat }.answer (entryImage (s.palEntry k.toNat))
    else s.ignoredAccess false)

end Sys2Proof.Machine
end

