-- ==== Sys2Proof/Machine/Dispatch.lean ====
section
/-! DEFINITION. The meaning of every instruction: one arm per constructor of `Instr`. -/

namespace Sys2Proof.Machine

def exec (i : Instr) (s : State) : Host.Outcome State Fault Refusal :=
  match i with
  | .jmp side delay addr => Sys2Proof.Machine.execJmp side delay addr s
  | .jmpNotX side delay addr => Sys2Proof.Machine.execJmpNotX side delay addr s
  | .outX side delay => Sys2Proof.Machine.execOutX side delay s
  | .nop side delay => Sys2Proof.Machine.execNop side delay s
  | .setPindirs d side delay => Sys2Proof.Machine.execSetPindirs d side delay s
  | .ctrlW v => Sys2Proof.Machine.execCtrlW v s
  | .ctrlR => Sys2Proof.Machine.execCtrlR s
  | .statR => Sys2Proof.Machine.execStatR s
  | .debugR => Sys2Proof.Machine.execDebugR s
  | .debugW v => Sys2Proof.Machine.execDebugW v s
  | .faultR => Sys2Proof.Machine.execFaultR s
  | .sysclkW v => Sys2Proof.Machine.execSysclkW v s
  | .sysclkR => Sys2Proof.Machine.execSysclkR s
  | .clkdivR => Sys2Proof.Machine.execClkdivR s
  | .clkcfgW v => Sys2Proof.Machine.execClkcfgW v s
  | .wrapW v => Sys2Proof.Machine.execWrapW v s
  | .wrapR => Sys2Proof.Machine.execWrapR s
  | .txfW v => Sys2Proof.Machine.execTxfW v s
  | .pixpushW v => Sys2Proof.Machine.execPixpushW v s
  | .claimR => Sys2Proof.Machine.execClaimR s
  | .palgenW v => Sys2Proof.Machine.execPalgenW v s
  | .addrR => Sys2Proof.Machine.execAddrR s
  | .imemW a v => Sys2Proof.Machine.execImemW a v s
  | .palR k => Sys2Proof.Machine.execPalR k s

end Sys2Proof.Machine
end

