-- ==== Sys2Proof/Machine/Cycle.lean ====
section
/-! DEFINITION. One `clk_sys` cycle (spec/20_memory.md R40, R41): reset if `rst_n = 0`, else the host access,
ENC's tick if the cycle is one, TICKGEN and COLOR, all reading the state as it stood at the start of the
cycle and committing together with the tie-breaks of R41. -/

namespace Sys2Proof.Machine

/-- What the input ports carry in the next cycle: idle past the end of the listed inputs. -/
def State.nextPort (s : State) : PortCycle := s.inputs.headD PortCycle.idle

/-- The start of a cycle: its port inputs are taken, and `h_rdata` carries nothing yet. -/
def State.openCycle (s : State) : State := { s with inputs := s.inputs.tail, hRdata := none }

/-- Go on with the next state, or pass a stop through. -/
def andThen (r : Result State) (f : State → Result State) : Result State :=
  match r with
  | .next s => f s
  | .fault e => .fault e
  | .refused e => .refused e

/-- The host's part of a cycle (spec/20_memory.md R42): the operation the access stands for, or R154. -/
def hostCycle (access : Option HostAccess) (s : State) : Result State :=
  match access with
  | none => .next s
  | some a =>
    match decodeAccess s.config a with
    | .ok i => exec i s
    | .error _ => .next (s.ignoredAccess a.write)

/-- One tick of ENC (spec/40_encoder_instructions.md R80): a delay tick, a fault entry, or the tick of the
instruction the fetched word decodes to. -/
def encTick (s : State) : Result State :=
  if s.delayCtr ≠ 0 then .next s.delayTick
  else
    match decodeMicro s.fetchWord with
    | .ok i => exec i s
    | .error _ => .next s.raiseIllegal

/-- The words the host's access appended to the FIFO that stood at the start of the cycle. -/
def pushedWords (start host : State) : List Word := host.fifo.drop start.fifo.length

/-- The state ENC's tick is given: what the host left, with the FIFO as it stood at the start of the cycle
(spec/20_memory.md R50). Running ENC after the host makes its set of TXSTALL win over a host clear
(spec/10_state.md R18) and its fault entry win over a host write of EN = 1 (R41). Of what else a host
access can change, ENC's tick reads nothing while EN = 1: IMEM and WRAP are locked
(spec/43_host_operations.md R157). -/
def encView (start host : State) : State := { host with fifo := start.fifo }

/-- The commit of a cycle: an accepted push goes behind what ENC's pop left (R50), `acc` is TICKGEN's, and
COLOR steps if PAL_BUSY was 1 at the start of the cycle (spec/44_color_engine.md R166). -/
def closeCycle (start host enc : State) : State :=
  let committed :=
    { enc with fifo := enc.fifo ++ pushedWords start host, acc := start.tickgenAcc }
  if start.palBusy then committed.colorStep else committed

/-- ENC's part of a cycle: its tick if TICKGEN enables it, from start-of-cycle EN and `acc` (R116). -/
def encCycle (start host : State) : Result State :=
  if start.isTick then encTick (encView start host) else .next (encView start host)

/-- A cycle with `rst_n = 1` and the host access `access`. -/
def runCycle (access : Option HostAccess) (start : State) : Result State :=
  andThen (hostCycle access start) fun host =>
    andThen (encCycle start host) fun enc => .next (closeCycle start host enc)

/-- One cycle of WSENC (spec/INDEX.md, reading order; spec/70_reset_and_hazards.md R225). -/
def cycle (s : State) : Result State :=
  if s.nextPort.rstN then runCycle s.nextPort.access s.openCycle
  else .next s.openCycle.applyReset

/-- `s` with the host access `a` presented in the next cycle. -/
def State.presentAccess (a : HostAccess) (s : State) : State :=
  { s with inputs := ⟨true, some a⟩ :: s.inputs.tail }

/-- `s` with the next cycle an instruction tick of ENC that fetches `w`: the word stands at IMEM[pc], no
delay is pending, the cycle is a tick, and the host presents nothing. A fetch takes EN = 1, and EN = 1
takes CLK_VALID = 1, FAULT.CODE = 0 and a divider of at least 1.0 (spec/60_exceptions.md R210,
spec/41_clock_configurator.md R116), so these are set where they do not hold (log entry 10). -/
def State.presentWord (w : Half) (s : State) : State :=
  { s with
    imem := s.imem.write s.pc.toNat w
    delayCtr := 0
    en := true
    acc := if s.acc.toNat < 256 then s.acc else 0
    clkInt := if 256 ≤ s.dividerQ.toNat then s.clkInt else 1
    clkFrac := if 256 ≤ s.dividerQ.toNat then s.clkFrac else 0
    clkValid := true
    fault := if s.fault.code = 0 then s.fault else ⟨0, 0, 0⟩
    inputs := PortCycle.idle :: s.inputs.tail }

/-- `s` with the next cycle running the code `c`. -/
def State.presentCode (c : Code) (s : State) : State :=
  match c with
  | .micro w => s.presentWord w
  | .access a => s.presentAccess a

end Sys2Proof.Machine
end

