-- ==== Sys2Proof/Machine/Step.lean ====
section
/-! DEFINITION. The step of the machine: one `clk_sys` cycle (Machine/Cycle.lean), and a table word placed
where the next step runs it. -/

namespace Sys2Proof.Machine

/-- One step is one cycle of `clk_sys` (spec/20_memory.md R41, spec/92_eei_decisions.md D2). -/
def step (s : State) : Host.Outcome State Fault Refusal := cycle s

/-- `s` with the instruction of a table word where the next step runs it: a micro-instruction word at
IMEM[pc] in a tick, a host operation on the host port (log entries 9 and 10). -/
def State.withFetchWord (s : State) (nbits w : Nat) : State := s.presentCode (tableCode nbits w)

end Sys2Proof.Machine
end

