-- ==== Sys2Proof/Machine/ColorReference.lean ====
section
/-! DEFINITION. The reference function of COLOR over the real numbers, stage by stage as spec/44_color_engine.md
section 2 writes it (R167 to R178). The step never evaluates it: it is what the contract of R181 compares
LIN16 with, and the machine's own evaluation in fixed point is Machine/Color.lean. -/

namespace Sys2Proof.Machine

/-- Stage 1 (R168): the sRGB transfer function. -/
noncomputable def refEotf (e : ℝ) : ℝ :=
  if e ≤ 0.04045 then e / 12.92 else ((e + 0.055) / 1.055) ^ (2.4 : ℝ)

/-- The inverse sRGB transfer function of R182. -/
noncomputable def refOetf (v : ℝ) : ℝ :=
  if v ≤ 0.0031308 then 12.92 * v else 1.055 * v ^ (1 / 2.4 : ℝ) - 0.055

/-- BASE as real numbers, channels r, g, b (spec/00_scope.md R6). -/
noncomputable def refBase (c : Config) : Fin 3 → ℝ :=
  ![c.baseR.num / c.baseR.den, c.baseG.num / c.baseG.den, c.baseB.num / c.baseB.den]

/-- The matrix `M` of stage 2 (R169). -/
noncomputable def refMatrix : Matrix (Fin 3) (Fin 3) ℝ :=
  !![0.4124564, 0.3575761, 0.1804375;
     0.2126729, 0.7151522, 0.0721750;
     0.0193339, 0.1191920, 0.9503041]

/-- The D65 white point (R170). -/
noncomputable def refWhite : Fin 3 → ℝ := ![0.95047, 1, 1.08883]

/-- `eps` (R170). -/
noncomputable def refEps : ℝ := 216 / 24389

/-- `kappa` (R170). -/
noncomputable def refKappa : ℝ := 24389 / 27

/-- `f` of stage 3 (R170). -/
noncomputable def refF (t : ℝ) : ℝ :=
  if refEps < t then t ^ (1 / 3 : ℝ) else (refKappa * t + 16) / 116

/-- `finv` of stage 8 (R175). -/
noncomputable def refFinv (u : ℝ) : ℝ :=
  if refEps < u ^ 3 then u ^ 3 else (116 * u - 16) / refKappa

/-- Stage 2 (R169): the base colour in CIE XYZ. -/
noncomputable def refXyz (c : Config) : Fin 3 → ℝ :=
  refMatrix.mulVec fun i => refEotf (refBase c i)

/-- `f` of the base colour relative to the white point, component by component (R170). -/
noncomputable def refFxyz (c : Config) (i : Fin 3) : ℝ := refF (refXyz c i / refWhite i)

/-- `L` of the base colour (R170). -/
noncomputable def refL (c : Config) : ℝ := 116 * refFxyz c 1 - 16

/-- `a` of the base colour (R170). -/
noncomputable def refA (c : Config) : ℝ := 500 * (refFxyz c 0 - refFxyz c 1)

/-- `b` of the base colour (R170). -/
noncomputable def refB (c : Config) : ℝ := 200 * (refFxyz c 1 - refFxyz c 2)

/-- A real number reduced modulo 360 to `[0, 360)` (spec/00_scope.md section 5). -/
noncomputable def mod360 (x : ℝ) : ℝ := x - 360 * ⌊x / 360⌋

/-- Degrees to radians. -/
noncomputable def radians (d : ℝ) : ℝ := d * Real.pi / 180

/-- Stage 4 (R171): chroma. -/
noncomputable def refChroma (c : Config) : ℝ := Real.sqrt (refA c ^ 2 + refB c ^ 2)

/-- Stage 4 (R171): hue in degrees, `atan2(b, a)` reduced to `[0, 360)`; 0 for a grey. -/
noncomputable def refHue (c : Config) : ℝ :=
  mod360 (Complex.arg ⟨refA c, refB c⟩ * 180 / Real.pi)

/-- Stage 5 (R172): the darkened lightness. -/
noncomputable def refDarkL (c : Config) : ℝ := c.darken.num / c.darken.den * refL c

/-- Stage 6 (R173): the hue of palette colour `k`. -/
noncomputable def refHueAt (c : Config) (k : ℕ) : ℝ := mod360 (refHue c + k * (360 / c.nLeds))

/-- Stage 7 (R174). -/
noncomputable def refAAt (c : Config) (k : ℕ) : ℝ := refChroma c * Real.cos (radians (refHueAt c k))

/-- Stage 7 (R174). -/
noncomputable def refBAt (c : Config) (k : ℕ) : ℝ := refChroma c * Real.sin (radians (refHueAt c k))

/-- Stage 8 (R175): palette colour `k` in CIE XYZ. -/
noncomputable def refXyzAt (c : Config) (k : ℕ) : Fin 3 → ℝ :=
  let fy := (refDarkL c + 16) / 116
  ![0.95047 * refFinv (fy + refAAt c k / 500), refFinv fy,
    1.08883 * refFinv (fy - refBAt c k / 200)]

/-- Stage 9 (R176): `RefLin(k)`, by the exact inverse of `M`. -/
noncomputable def refLin (c : Config) (k : ℕ) : Fin 3 → ℝ := refMatrix⁻¹.mulVec (refXyzAt c k)

/-- The index of a channel in a real triple. -/
def Channel.index : Channel → Fin 3
  | .r => 0
  | .g => 1
  | .b => 2

/-- `RefClamped(k)_c` (R177). -/
noncomputable def refClamped (c : Config) (k : ℕ) (ch : Channel) : ℝ :=
  max 0 (min 1 (refLin c k (Channel.index ch)))

/-- The contract of R181: the LIN16 value `u` is admitted for palette colour `k` and channel `ch`. -/
def LinAdmitted (c : Config) (k : ℕ) (ch : Channel) (u : ℕ) : Prop :=
  u ≤ 65535 ∧ |(u : ℝ) - 65535 * refClamped c k ch| ≤ c.colorEps

end Sys2Proof.Machine
end

