-- ==== Sys2Proof/Safety.lean ====
section
/-! DEFINITION. What the claims are stated in: the invariant of the machine, runs of ENC's ticks and the
waveform they write on the pin, and the state of the canonical program. -/

namespace Sys2Proof.Machine

/-! ### The invariant -/

/-- What every cycle keeps (see spec/60_exceptions.md R210, R219 and the rules at each field). -/
structure State.Inv (s : State) : Prop where
  /-- The parameters are in their legal ranges (spec/00_scope.md R6). -/
  config : s.config.legal = true
  /-- EN = 1 implies CLK_VALID = 1 and FAULT.CODE = 0 (R210). -/
  enabled : s.en = true → s.clkValid = true ∧ s.fault.code = 0
  /-- CLK_VALID = 1 says that CLKDIV is the usable divider of SYSCLK (R21, R113). -/
  clock : s.clkValid = true →
    s.dividerQ.toNat = dividerOf s.config s.sysclk.toNat ∧ dividerUsable s.dividerQ.toNat = true
  /-- While EN = 1 the accumulator stays below Q (R116). -/
  accBelow : s.en = true → s.acc.toNat < s.dividerQ.toNat
  /-- `osr_count` never exceeds 32 (R14). -/
  osrCount : s.osrCount.toNat ≤ 32
  /-- The FIFO holds at most FIFO_DEPTH words (R26). -/
  fifo : s.fifo.length ≤ s.config.fifoDepth
  /-- IMEM is in canonical form (R25). -/
  imem : s.imem.wf s.config.imemSize = true
  /-- PAL is in canonical form (R27). -/
  pal : s.pal.wf s.config.nLeds = true
  /-- PAL_DONE = 1 says that PAL holds the palette (R166, R188). -/
  palDone : s.palDone = true → s.pal = paletteOf s.config
  /-- PAL_BUSY = 1 excludes PAL_DONE = 1, and the timer runs exactly then (R166). -/
  palBusy : (s.palBusy = true → s.palDone = false ∧ 1 ≤ s.palTimer ∧ s.palTimer ≤ s.config.palLatency)
    ∧ (s.palBusy = false → s.palTimer = 0)
  /-- A halted encoder holds the pin low (R204). -/
  halted : s.fault.code ≠ 0 → s.wsOut = false
  /-- The FAULT record is one that R201 lists. -/
  record : (s.fault = ⟨0, 0, 0⟩)
    ∨ (s.fault.code = 1 ∧ decodeMicro s.fault.fins = .error .illegalWord)
    ∨ (s.fault.code = 2 ∧ s.fault.fins = 0)

/-! ### Runs of ENC's ticks -/

/-- `n` ticks of ENC with no other agent acting between them. -/
def encTicks : Nat → State → Result State
  | 0, s => .next s
  | n + 1, s => andThen (encTick s) (encTicks n)

/-- The levels that `n` ticks of ENC write on `ws_out`, first tick first; it ends early where a tick has no
next state. -/
def encTrace : Nat → State → List Bool
  | 0, _ => []
  | n + 1, s =>
    match encTick s with
    | .next t => t.wsOut :: encTrace n t
    | _ => []

/-- The levels ENC writes for one protocol bit, from the tick in which its `OUT X, 1` completes
(spec/40_encoder_instructions.md R97): T3 low, T1 high, T2 at the bit. -/
def bitCell (c : Config) (b : Bool) : List Bool :=
  List.replicate c.t3 false ++ List.replicate c.t1 true ++ List.replicate c.t2 b

/-- The 24 bit cells of a word: bits 31 down to 8 (R99). -/
def wordCells (c : Config) (w : Word) : List Bool :=
  (List.range 24).flatMap fun j => bitCell c (w.getLsbD (31 - j))

/-! ### The canonical program -/

/-- IMEM holds the canonical program at 0..4 and WRAP is (1, 4) (R96). -/
def State.Canonical (s : State) : Prop :=
  (∀ i : Fin 5, s.imem.read i = (canonicalProgram s.config.t1 s.config.t2 s.config.t3)[i]?)
    ∧ s.wrapBottom = 1 ∧ s.wrapTop = 4

/-- ENC is about to fetch the loop's `OUT X, 1`. -/
def State.AtOut (s : State) : Prop := s.Canonical ∧ s.pc = 1 ∧ s.delayCtr = 0

/-- `t` differs from `s` at most in what ENC's ticks write. -/
def SameButEnc (s t : State) : Prop :=
  t = { s with
    x := t.x, xWritten := t.xWritten, pc := t.pc, delayCtr := t.delayCtr, osr := t.osr,
    osrCount := t.osrCount, wsOut := t.wsOut, wsOe := t.wsOe, dbg := t.dbg, fifo := t.fifo }

/-- `t` differs from `s` at most in what a host access can write: no state of ENC but the FIFO's tail and,
through fault entry, the pin level. -/
def SameEnc (s t : State) : Prop :=
  t.x = s.x ∧ t.xWritten = s.xWritten ∧ t.pc = s.pc ∧ t.delayCtr = s.delayCtr ∧ t.osr = s.osr
    ∧ t.osrCount = s.osrCount ∧ t.wsOe = s.wsOe

end Sys2Proof.Machine
end

