-- ==== Sys2Proof/Certificates/Slice0/Obligations.lean ====
section
/-! DEFINITION. The statements for the provers, in the words of the numbered rules of spec/. A claim about an
instruction says its next state whole: every field not named in the record update is unchanged. A state carries the
parameters of its machine (spec/00_scope.md R6), so a claim about every state holds for every parameter record, and one
that rests on the legal ranges has them as its hypothesis. -/

namespace Sys2Proof.Claims

open Sys2Proof.Machine

/-! ### Words the claims share -/

/-- What R87 leaves of the OSR, its count and the FIFO, where `osrS` and `cntS` are the OSR and the count after
this tick's shift: a waiting word is taken if the count has reached PULL_THRESH. -/
def RefillOutcome (osrS : Word) (cntS : Nat) (fifo : List Word) (t : State) : Prop :=
  if t.config.pullThresh ≤ cntS ∧ fifo ≠ [] then fifo = t.osr :: t.fifo ∧ t.osrCount = 0
  else t.osr = osrS ∧ t.osrCount.toNat = cntS ∧ t.fifo = fifo

/-- The successor of an instruction that does not jump (R84). -/
def successor (s : State) : BitVec 5 :=
  if s.pc = s.wrapTop then s.wrapBottom else BitVec.ofNat 5 ((s.pc.toNat + 1) % 32)

/-- The word of an instruction is the number `base | s << 12 | n << 8 | operand`, its fields disjoint. -/
def EncodesAs (i : Instr) (base : Nat) (side : Bool) (delay : BitVec 4) (operand : Nat) : Prop :=
  encode i = .micro (BitVec.ofNat 16 (base + side.toNat * 2 ^ 12 + delay.toNat * 2 ^ 8 + operand))

/-- One tick of an instruction that completes and shifts nothing: pc, delay, side value, the refill of
R87, and nothing else. -/
def PlainTick (side : Bool) (delay : BitVec 4) (pc' : BitVec 5) (s t : State) : Prop :=
  t = { s with pc := pc', delayCtr := delay, wsOut := side,
               osr := t.osr, osrCount := t.osrCount, fifo := t.fifo }
    ∧ RefillOutcome s.osr s.osrCount.toNat s.fifo t

/-- The state at the start of a cycle as its agents read it: the port inputs are taken. -/
def started (s : State) : State := { s with inputs := s.inputs.tail, hRdata := none }

/-- What the commit of a cycle adds to what the host and ENC leave: TICKGEN's `acc` (R116) and COLOR's step
(R166), both decided by the state at the start of the cycle. -/
def Committed (s e : State) : State :=
  let q := s.clkInt.toNat * 256 + s.clkFrac.toNat
  let acc' : BitVec 24 :=
    if s.en then (if s.acc.toNat < 256 then s.acc + BitVec.ofNat 24 q - 256 else s.acc - 256) else 0
  let e' := { e with acc := acc' }
  if s.palBusy then
    (if 1 < e.palTimer then { e' with palTimer := e.palTimer - 1 }
     else { e' with pal := paletteOf e.config, palDone := true, palBusy := false, palTimer := 0 })
  else e'

/-- The cycle is a tick (R116). -/
def InTick (s : State) : Prop := s.en = true ∧ s.acc.toNat < 256

/-- `s` makes a cycle with `rst_n = 1`. -/
def NoReset (s : State) : Prop := s.nextPort.rstN = true

/-- `run` is a run of the machine. -/
def IsRun (run : Nat → State) : Prop := ∀ n, step (run n) = .next (run (n + 1))

end Sys2Proof.Claims

open Sys2Proof Sys2Proof.Machine Sys2Proof.Claims

/-! ### Encoding -/

/-- Words written out bit by bit from the encoding rows of spec/30_encoding.md decode to the instructions they
stand for. -/
def Obligations.SampleWordsDecode : Prop :=
  decodeMicro 0b0001010000000001#16 = .ok (.jmp true 4 1)
  ∧ decodeMicro 0b0001000100100100#16 = .ok (.jmpNotX true 1 4)
  ∧ decodeMicro 0b0110001000100001#16 = .ok (.outX false 2)
  ∧ decodeMicro 0b1010010001000010#16 = .ok (.nop false 4)
  ∧ decodeMicro 0b1110000010000001#16 = .ok (.setPindirs true false 0)
  ∧ decodeAccess wsenc ⟨true, 0x00#8, 1#32⟩ = .ok (.ctrlW 1#32)
  ∧ decodeAccess wsenc ⟨true, 0x23#8, 0x1401#32⟩ = .ok (.imemW 3 0x1401#32)
  ∧ decodeAccess wsenc ⟨false, 0x0A#8, 0#32⟩ = .ok .claimR
  ∧ decodeAccess wsenc ⟨false, 0x8B#8, 0#32⟩ = .ok (.palR 11)

/-- With any parameters, decoding the code of a well-formed instruction gives the instruction back, every operand at
every value (an inference spec/30_encoding.md marks as its own: decode is a left inverse of encode). -/
def Obligations.DecodeOfEncode : Prop :=
  ∀ (c : Config) (i : Instr), i.wellFormed c = true → decode c (encode i) = .ok i

/-- Each code that stands for an instruction is that instruction's code, but for the data of a read access: it
carries no operand, and the model encodes it as 0 (log entry 15). -/
def Obligations.EncodeOfDecode : Prop :=
  (∀ c w i, decodeMicro w = .ok i → i.wellFormed c = true ∧ encode i = .micro w)
  ∧ ∀ c a i, decodeAccess c a = .ok i →
      i.wellFormed c = true ∧ encode i = .access (if a.write then a else ⟨false, a.addr, 0⟩)

/-- R68: the reserved words are exactly CLASS 1, 2, 4 and 6, CLASS 0 with COND >= 2, and CLASS 3, 5 and 7 other
than their one admitted form. -/
def Obligations.ReservedWordsAreIllegal : Prop :=
  ∀ w : Half, decodeMicro w = .error .illegalWord ↔
    (let cls := w.toNat / 2 ^ 13
     cls = 1 ∨ cls = 2 ∨ cls = 4 ∨ cls = 6
     ∨ (cls = 0 ∧ 2 ≤ w.toNat / 32 % 8)
     ∨ (cls = 3 ∧ w.toNat % 256 ≠ 0x21)
     ∨ (cls = 5 ∧ w.toNat % 256 ≠ 0x42)
     ∨ (cls = 7 ∧ w.toNat / 2 % 128 ≠ 0b1000000))

/-! ### ENC -/

/-- The refill takes the waiting word exactly when the count after the shift has reached PULL_THRESH, and
changes nothing else. -/
def Obligations.RefillTakesWaitingWord : Prop :=
  ∀ (shifted : Bool) (s : State),
    let t := s.refill shifted
    t = { s with osr := t.osr, osrCount := t.osrCount, fifo := t.fifo }
    ∧ (s.osrCount.toNat ≤ 32 →
        RefillOutcome (if shifted then s.osr <<< 1 else s.osr)
          (if shifted then s.osrCount.toNat + 1 else s.osrCount.toNat) s.fifo t)

/-- R88: `JMP addr`, its word, and that it always completes and always jumps, whatever WRAP says. -/
def Obligations.JmpAlwaysJumps : Prop :=
  ∀ side delay addr, EncodesAs (.jmp side delay addr) 0x0000 side delay addr.toNat
    ∧ ∀ s, ∃ t, exec (.jmp side delay addr) s = .next t ∧ PlainTick side delay addr s t

/-- R89: `JMP !X`, its word, and that it jumps when X = 0 and goes to the successor when X = 1; X never written makes
it do one of the two. -/
def Obligations.JmpNotXTestsX : Prop :=
  ∀ side delay addr, EncodesAs (.jmpNotX side delay addr) 0x0020 side delay addr.toNat
    ∧ ∀ s, ∃ t, exec (.jmpNotX side delay addr) s = .next t
      ∧ (s.xWritten = true → s.x = false → PlainTick side delay addr s t)
      ∧ (s.xWritten = true → s.x = true → PlainTick side delay (successor s) s t)
      ∧ (s.xWritten = false →
          PlainTick side delay addr s t ∨ PlainTick side delay (successor s) s t)

/-- R86: `OUT X, 1`, its word, and that it shifts the most significant bit of the OSR into X, or stalls on an empty
OSR. -/
def Obligations.OutShiftsOrStalls : Prop :=
  ∀ side delay, EncodesAs (.outX side delay) 0x6021 side delay 0
    ∧ ∀ s, ∃ t, exec (.outX side delay) s = .next t
      ∧ (s.config.legal = true → s.osrCount.toNat < s.config.pullThresh →
          t = { s with x := s.osr.getLsbD 31, xWritten := true, pc := successor s, delayCtr := delay,
                       wsOut := side, osr := t.osr, osrCount := t.osrCount, fifo := t.fifo }
          ∧ RefillOutcome (s.osr <<< 1) (s.osrCount.toNat + 1) s.fifo t)
      ∧ (s.config.pullThresh ≤ s.osrCount.toNat →
          t = { s with wsOut := side, osr := t.osr, osrCount := t.osrCount, fifo := t.fifo,
                       dbg := { s.dbg with txstall := s.dbg.txstall || s.fifo.isEmpty } }
          ∧ RefillOutcome s.osr s.osrCount.toNat s.fifo t)

/-- R90: `NOP`, its word, and that it drives its side value and goes to the successor. -/
def Obligations.NopHoldsLevel : Prop :=
  ∀ side delay, EncodesAs (.nop side delay) 0xA042 side delay 0
    ∧ ∀ s, ∃ t, exec (.nop side delay) s = .next t ∧ PlainTick side delay (successor s) s t

/-- R85: `SET PINDIRS, d`, its word, and that it writes the pin direction. -/
def Obligations.SetPindirsSetsDirection : Prop :=
  ∀ d side delay, EncodesAs (.setPindirs d side delay) 0xE080 side delay d.toNat
    ∧ ∀ s, ∃ t, exec (.setPindirs d side delay) s = .next t
      ∧ t.wsOe = d ∧ PlainTick side delay (successor s) { s with wsOe := d } t

/-- R81: a delay tick only counts down, and takes a waiting word if the OSR is empty. -/
def Obligations.DelayTickCountsDown : Prop :=
  ∀ s : State, s.delayCtr ≠ 0 → ∃ t, encTick s = .next t
    ∧ t = { s with delayCtr := t.delayCtr, osr := t.osr, osrCount := t.osrCount, fifo := t.fifo }
    ∧ t.delayCtr.toNat + 1 = s.delayCtr.toNat
    ∧ RefillOutcome s.osr s.osrCount.toNat s.fifo t

/-- R82, R202: a tick that fetches a reserved word enters fault 1, records pc and the word, clears EN, drives
the pin low, and changes nothing else. -/
def Obligations.IllegalFetchEntersFaultOne : Prop :=
  ∀ s : State, s.delayCtr = 0 → decodeMicro s.fetchWord = .error .illegalWord →
    encTick s = .next { s with
      fault := if s.fault.code = 0 then ⟨1, s.pc, s.fetchWord⟩ else s.fault
      en := false
      wsOut := false }

/-- One bit of the canonical program, with any legal parameters (an inference the spec marks as its own): the pin is low
for T3 ticks, high for T1, at the bit for T2, and the next `OUT X, 1` is fetched CYCLES_PER_BIT ticks after this one. -/
def Obligations.OneBitCellOnThePin : Prop :=
  ∀ s : State, s.config.legal = true → s.AtOut → s.osrCount.toNat < s.config.pullThresh →
    encTrace s.config.cyclesPerBit s = bitCell s.config (s.osr.getLsbD 31)
    ∧ ∃ t, encTicks s.config.cyclesPerBit s = .next t ∧ t.AtOut ∧ SameButEnc s t
        ∧ t.wsOe = s.wsOe ∧ t.dbg = s.dbg
        ∧ t.x = s.osr.getLsbD 31 ∧ t.xWritten = true
        ∧ RefillOutcome (s.osr <<< 1) (s.osrCount.toNat + 1) s.fifo t

/-- The word in the OSR and the words waiting behind it leave as 24 cells each, most significant bit first, with no
tick between cells; bits 7..0 of each word have no effect (inferences the spec marks as its own). -/
def Obligations.QueuedWordsOnTheWire : Prop :=
  ∀ s : State, s.config.legal = true → s.AtOut → s.osrCount = 0 →
    encTrace (24 * s.config.cyclesPerBit * (s.fifo.length + 1)) s
      = (s.osr :: s.fifo).flatMap (wordCells s.config)

/-- While OSR and FIFO are empty ENC sits at its `OUT X, 1` with the pin low and TXSTALL set; a word in the FIFO
is taken in the next tick and the `OUT` completes in the tick after that (an inference the spec marks as its own). -/
def Obligations.StallHoldsLowAndEndsByItself : Prop :=
  ∀ s : State, s.config.legal = true → s.AtOut → s.en = true → s.config.pullThresh ≤ s.osrCount.toNat →
    (s.fifo = [] → ∃ t, encTick s = .next t
        ∧ t = { s with wsOut := false, dbg := { s.dbg with txstall := true } }
        ∧ t.AtOut ∧ t.stalled = true)
    ∧ ∀ w rest, s.fifo = w :: rest → ∃ t u, encTick s = .next t ∧ encTick t = .next u
        ∧ t = { s with wsOut := false, osr := w, osrCount := 0, fifo := rest }
        ∧ u.x = w.getLsbD 31 ∧ u.xWritten = true ∧ u.osrCount = 1 ∧ u.pc = 2 ∧ u.wsOut = false

/-- Once EN = 1 the canonical program never faults, whatever the host does: a cycle without reset leaves
FAULT.CODE = 0, the program and WRAP as they were, and pc inside 0..4 (an inference the spec marks as its own), with any legal
parameters. -/
def Obligations.CanonicalProgramNeverFaults : Prop :=
  ∀ s t : State, s.config.legal = true → s.Canonical → s.pc.toNat ≤ 4 → s.en = true → s.clkValid = true →
    s.fault.code = 0 → NoReset s → step s = .next t →
    t.Canonical ∧ t.pc.toNat ≤ 4 ∧ t.clkValid = true ∧ t.fault.code = 0

/-! ### Host operations -/

/-- R135: `CTRL.W v`, its four cases and its corner cases in a cycle that is a tick: with `v[0] = 0` the tick still
executes; with `v[0] = 1` a fault that ENC enters in the same cycle wins. -/
def Obligations.CtrlWriteCases : Prop :=
  (∀ v s,
    (v.getLsbD 0 = false → exec (.ctrlW v) s = .next { s with en := false })
    ∧ (v.getLsbD 0 = true → s.fault.code ≠ 0 → exec (.ctrlW v) s = .next s)
    ∧ (v.getLsbD 0 = true → s.fault.code = 0 → s.clkValid = false →
        exec (.ctrlW v) s = .next { s with fault := ⟨2, s.pc, 0⟩, en := false, wsOut := false })
    ∧ (v.getLsbD 0 = true → s.fault.code = 0 → s.clkValid = true →
        exec (.ctrlW v) s = .next { s with en := true }))
  ∧ (∀ (s e : State) (v : Word), s.nextPort = ⟨true, some ⟨true, 0x00#8, v⟩⟩ → v.getLsbD 0 = false → InTick s →
      encTick { started s with en := false } = .next e → e.en = false ∧ step s = .next (Committed s e))
  ∧ ∀ (s t : State) (v : Word), s.nextPort = ⟨true, some ⟨true, 0x00#8, v⟩⟩ → v.getLsbD 0 = true → InTick s →
      s.delayCtr = 0 → decodeMicro s.fetchWord = .error .illegalWord → step s = .next t →
      t.en = false ∧ t.wsOut = false ∧ t.fault.code ≠ 0

/-- R136, R138, R140, R142, R143, R146, R151: the register reads answer their fields at their places and change
nothing else. -/
def Obligations.RegisterReadsAnswerTheirFields : Prop :=
  ∀ s : State,
    (∃ v : Word, exec .ctrlR s = .next { s with hRdata := some v } ∧ v.toNat = s.en.toNat)
    ∧ (∃ v : Word, exec .debugR s = .next { s with hRdata := some v }
        ∧ v.toNat = s.dbg.txstall.toNat + 2 * s.dbg.txover.toNat + 4 * s.dbg.busywr.toNat)
    ∧ (∃ v : Word, exec .faultR s = .next { s with hRdata := some v }
        ∧ v.toNat = s.fault.fins.toNat * 2 ^ 16 + s.fault.fpc.toNat * 2 ^ 8 + s.fault.code.toNat)
    ∧ exec .sysclkR s = .next { s with hRdata := some s.sysclk }
    ∧ (∃ v : Word, exec .clkdivR s = .next { s with hRdata := some v }
        ∧ v.toNat = s.clkInt.toNat * 2 ^ 16 + s.clkFrac.toNat * 2 ^ 8)
    ∧ (∃ v : Word, exec .wrapR s = .next { s with hRdata := some v }
        ∧ v.toNat = s.wrapTop.toNat * 2 ^ 8 + s.wrapBottom.toNat)
    ∧ (∃ v : Word, exec .addrR s = .next { s with hRdata := some v } ∧ v.toNat = s.pc.toNat)

/-- R137, R17: `STAT.R` answers every status field at its place, from the state at the start of the cycle. -/
def Obligations.StatReadAnswersStatusFields : Prop :=
  ∀ s : State, s.config.legal = true → s.fifo.length ≤ s.config.fifoDepth →
    ∃ v : Word, exec .statR s = .next { s with hRdata := some v }
      ∧ v.getLsbD 0 = decide (s.fifo.length = s.config.fifoDepth)
      ∧ v.getLsbD 1 = s.fifo.isEmpty
      ∧ v.extractLsb' 2 2 = 0
      ∧ (v.extractLsb' 4 4).toNat = s.fifo.length
      ∧ (v.getLsbD 8 = true ↔ s.en = true ∧ s.delayCtr = 0
          ∧ (∃ side delay, decodeMicro s.fetchWord = .ok (.outX side delay))
          ∧ s.config.pullThresh ≤ s.osrCount.toNat)
      ∧ v.getLsbD 9 = decide (s.fault.code ≠ 0)
      ∧ v.getLsbD 10 = s.palDone
      ∧ v.getLsbD 11 = s.palBusy
      ∧ v.getLsbD 12 = s.owned
      ∧ v.getLsbD 13 = s.clkValid
      ∧ v.getLsbD 14 = s.wsOut
      ∧ v.getLsbD 15 = s.wsOe
      ∧ v.extractLsb' 16 16 = 0

/-- R139, R18: `DEBUG.W` clears the flags whose bits are 1; a TXSTALL that ENC sets in the same cycle wins. -/
def Obligations.DebugWriteClearsUnlessSet : Prop :=
  (∀ v s, exec (.debugW v) s = .next { s with dbg :=
      ⟨s.dbg.txstall && !v.getLsbD 0, s.dbg.txover && !v.getLsbD 1,
       s.dbg.busywr && !v.getLsbD 2⟩ })
  ∧ ∀ (v : Word) (s : State) (side : Bool) (delay : BitVec 4),
      s.nextPort = ⟨true, some ⟨true, 0x02#8, v⟩⟩ → InTick s → s.delayCtr = 0 →
      decodeMicro s.fetchWord = .ok (.outX side delay) → s.config.pullThresh ≤ s.osrCount.toNat → s.fifo = [] →
      ∃ t, step s = .next t ∧ t.dbg =
        ⟨true, s.dbg.txover && !v.getLsbD 1, s.dbg.busywr && !v.getLsbD 2⟩

/-- R141: `SYSCLK.W` while EN = 0 stores the frequency and clears CLK_VALID; CLKDIV keeps its value. While EN = 1 it
is a locked write. -/
def Obligations.SysclkWriteClearsValid : Prop :=
  ∀ v s,
    (s.en = false → exec (.sysclkW v) s = .next { s with sysclk := v, clkValid := false })
    ∧ (s.en = true → exec (.sysclkW v) s = .next { s with dbg := { s.dbg with busywr := true } })

/-- R111: CLKCFG while EN = 0 computes the divider in kHz, truncating; an unusable divider clears CLK_VALID and
enters fault 2. While EN = 1 it is a locked write. -/
def Obligations.ClkcfgComputesDivider : Prop :=
  ∀ v s,
    let q := s.sysclk.toNat / 1000 * 256 / (s.config.targetKhz * (s.config.t1 + s.config.t2 + s.config.t3))
    let t := { s with clkInt := BitVec.ofNat 16 (q / 256 % 2 ^ 16), clkFrac := BitVec.ofNat 8 (q % 256) }
    (s.en = false → 256 ≤ q ∧ q < 2 ^ 24 → exec (.clkcfgW v) s = .next { t with clkValid := true })
    ∧ (s.en = false → ¬ (256 ≤ q ∧ q < 2 ^ 24) → exec (.clkcfgW v) s = .next { t with
        clkValid := false
        fault := if s.fault.code = 0 then ⟨2, s.pc, 0⟩ else s.fault
        en := false
        wsOut := false })
    ∧ (s.en = true → exec (.clkcfgW v) s = .next { s with dbg := { s.dbg with busywr := true } })

/-- R145: `WRAP.W` while EN = 0 stores BOTTOM and TOP; other bits are ignored. While EN = 1 it is a locked write. -/
def Obligations.WrapWriteStoresBounds : Prop :=
  ∀ v s,
    (s.en = false → ∃ t, exec (.wrapW v) s = .next t
      ∧ t = { s with wrapBottom := t.wrapBottom, wrapTop := t.wrapTop }
      ∧ t.wrapBottom.toNat = v.toNat % 32 ∧ t.wrapTop.toNat = v.toNat / 256 % 32)
    ∧ (s.en = true → exec (.wrapW v) s = .next { s with dbg := { s.dbg with busywr := true } })

/-- R147, R47: `TXF.W` appends the word unchanged if the FIFO has room, in any state of EN and FAULT; a push to a
full FIFO is dropped and sets TXOVER. -/
def Obligations.TxfPushesOrDrops : Prop :=
  ∀ w s,
    (s.fifo.length < s.config.fifoDepth → exec (.txfW w) s = .next { s with fifo := s.fifo ++ [w] })
    ∧ (s.config.fifoDepth ≤ s.fifo.length →
        exec (.txfW w) s = .next { s with dbg := { s.dbg with txover := true } })

/-- R148, R125, R129: `PIXPUSH.W v` pushes `pack(v[23:16], v[15:8], v[7:0])`; bits 31..24 are ignored; it has the
effect of `TXF.W` of the packed word. -/
def Obligations.PixpushPacksThenPushes : Prop :=
  ∀ v s,
    let r := v.toNat / 2 ^ 16 % 2 ^ 8
    let g := v.toNat / 2 ^ 8 % 2 ^ 8
    let b := v.toNat % 2 ^ 8
    let w := BitVec.ofNat 32 (g * 2 ^ 24 + r * 2 ^ 16 + b * 2 ^ 8)
    exec (.pixpushW v) s = exec (.txfW w) s
    ∧ (s.fifo.length < s.config.fifoDepth → exec (.pixpushW v) s = .next { s with fifo := s.fifo ++ [w] })
    ∧ (s.config.fifoDepth ≤ s.fifo.length →
        exec (.pixpushW v) s = .next { s with dbg := { s.dbg with txover := true } })

/-- R149: `CLAIM.R` answers 1 and sets OWNED if it was 0, else answers 0 and changes nothing. There is no release: no
cycle but a reset clears OWNED, and nothing but a read of CLAIM sets it. -/
def Obligations.ClaimReadTestsAndSets : Prop :=
  (∀ s : State,
    (s.owned = false → exec .claimR s = .next { s with owned := true, hRdata := some 1 })
    ∧ (s.owned = true → exec .claimR s = .next { s with hRdata := some 0 }))
  ∧ ∀ s t : State, step s = .next t →
    (s.nextPort.rstN = false → t.owned = false)
    ∧ (NoReset s → s.owned = true → t.owned = true)
    ∧ (NoReset s → s.owned = false → (t.owned = true ↔ ∃ v, s.nextPort.access = some ⟨false, 0x0A#8, v⟩))

/-- R150: `PALGEN.W` starts the palette generator, with EN = 0 or 1 and whatever is written; it is ignored with BUSYWR
if PAL_BUSY = 1. -/
def Obligations.PalgenWriteStarts : Prop :=
  ∀ v s,
    (s.palBusy = false →
      exec (.palgenW v) s = .next { s with palBusy := true, palDone := false, palTimer := s.config.palLatency })
    ∧ (s.palBusy = true → exec (.palgenW v) s = .next { s with dbg := { s.dbg with busywr := true } })

/-- An accepted PALGEN keeps PAL_BUSY = 1 and PAL_DONE = 0 for PAL_LATENCY cycles, whatever else happens but reset,
and then PAL holds the palette with PAL_DONE = 1. PAL_LATENCY is open and the palette's choice within COLOR_EPS
is free (log entries 6 and 7): this holds for every value of them. -/
def Obligations.PalgenFinishesAfterLatency : Prop :=
  ∀ (run : Nat → State) (v : Word), IsRun run → (∀ n, NoReset (run n)) →
    (run 0).config.legal = true → (run 0).palBusy = false → (run 0).nextPort.access = some ⟨true, 0x0B#8, v⟩ →
    (∀ n, 1 ≤ n → n ≤ (run 0).config.palLatency → (run n).palBusy = true ∧ (run n).palDone = false)
    ∧ (run ((run 0).config.palLatency + 1)).palBusy = false
    ∧ (run ((run 0).config.palLatency + 1)).palDone = true
    ∧ (run ((run 0).config.palLatency + 1)).pal = paletteOf (run 0).config

/-- R152: `IMEM.W i` while EN = 0 stores the low 16 bits at word i, unchecked, and changes no other word. While EN = 1
it is a locked write. A read of the same address answers 0: IMEM cannot be read back. -/
def Obligations.ImemWriteStoresOneWord : Prop :=
  ∀ i v s,
    (s.en = false → ∃ t, exec (.imemW i v) s = .next t
      ∧ t = { s with imem := t.imem }
      ∧ t.imemWord i = BitVec.ofNat 16 (v.toNat % 2 ^ 16)
      ∧ ∀ a, a ≠ i.toNat → t.imem.read a = s.imem.read a)
    ∧ (s.en = true → exec (.imemW i v) s = .next { s with dbg := { s.dbg with busywr := true } })
    ∧ hostCycle (some ⟨false, BitVec.ofNat 8 (0x20 + i.toNat), v⟩) s = .next { s with hRdata := some 0 }

/-- `PAL.R k` answers the entry once PAL_DONE = 1; while PAL_DONE = 0 it answers some 24-bit value, and nothing but
the model's own count of free values changes (log entry 5). -/
def Obligations.PalReadAnswersEntry : Prop :=
  ∀ k s, k.toNat < s.config.nLeds →
    (∀ e, s.palDone = true → s.pal.read k.toNat = some e →
      exec (.palR k) s = .next { s with hRdata := some (e.setWidth 32) })
    ∧ (s.palDone = false → ∃ (e : BitVec 24) (n : Nat),
      exec (.palR k) s = .next { s with hRdata := some (e.setWidth 32), draws := n })

/-- R157: a write to SYSCLK, CLKCFG, WRAP or IMEM while EN = 1, or to PALGEN while PAL_BUSY = 1, changes nothing
but BUSYWR. -/
def Obligations.LockedWritesOnlySetBusywr : Prop :=
  ∀ v i s,
    let locked : Host.Outcome State Fault Refusal :=
      .next { s with dbg := { s.dbg with busywr := true } }
    (s.en = true → exec (.sysclkW v) s = locked ∧ exec (.clkcfgW v) s = locked
      ∧ exec (.wrapW v) s = locked ∧ exec (.imemW i v) s = locked)
    ∧ (s.palBusy = true → exec (.palgenW v) s = locked)

/-- R154, R45: a read of a write-only register or a reserved address answers 0, a write to a read-only register or
a reserved address is ignored; no flag, no fault. -/
def Obligations.OtherAccessesAreHarmless : Prop :=
  ∀ (a : HostAccess) (s : State),
    let n := a.addr.toNat
    (a.write = false →
      (n = 0x06 ∨ n = 0x08 ∨ n = 0x09 ∨ n = 0x0B ∨ (0x0D ≤ n ∧ n < 0x80) ∨ 0x80 + s.config.nLeds ≤ n) →
      hostCycle (some a) s = .next { s with hRdata := some 0 })
    ∧ (a.write = true →
      (n = 0x01 ∨ n = 0x03 ∨ n = 0x05 ∨ n = 0x0A ∨ (0x0C ≤ n ∧ n < 0x20) ∨ 0x40 ≤ n) →
      hostCycle (some a) s = .next s)

/-! ### Cycles -/

/-- A step runs the decoded operations. A cycle with `rst_n = 0` is a reset. Else it runs `hostCycle` on the state at
the start of the cycle and, in a tick, `encTick` on what the host left with the FIFO as it stood at the start of
the cycle, and an accepted push goes behind what ENC left; the commit adds `acc` and COLOR. `hostCycle` is `exec` of
the operation presented, nothing without an access, and an ignored access where none is decoded; `encTick` with no
delay pending is `exec` of the instruction fetched, which is the one at the start of the cycle. (A delay tick and an
illegal word: DelayTickCountsDown, IllegalFetchEntersFaultOne.) The step and its order are the model's reading of
the cycle (log entries 1 and 2). -/
def Obligations.StepRunsDecodedOperations : Prop :=
  (∀ s, s.nextPort.rstN = false → step s = .next (started s).applyReset)
  ∧ (∀ s h, NoReset s → ¬ InTick s → hostCycle s.nextPort.access (started s) = .next h →
      step s = .next (Committed s h))
  ∧ (∀ s h e, NoReset s → InTick s → hostCycle s.nextPort.access (started s) = .next h →
      encTick { h with fifo := s.fifo } = .next e →
      step s = .next (Committed s { e with fifo := e.fifo ++ h.fifo.drop s.fifo.length })
      ∧ h.delayCtr = s.delayCtr ∧ h.fetchWord = s.fetchWord)
  ∧ (∀ s, hostCycle none s = .next s)
  ∧ (∀ s a i, decodeAccess s.config a = .ok i → hostCycle (some a) s = exec i s)
  ∧ (∀ s a r, decodeAccess s.config a = .error r →
      hostCycle (some a) s = .next (if a.write then s else { s with hRdata := some 0 }))
  ∧ ∀ s i, s.delayCtr = 0 → decodeMicro s.fetchWord = .ok i → encTick s = exec i s

/-- No rule of the spec stops the machine: every cycle has a next state (every host access completes in its cycle,
a fault is a transition; log entry 14), and it is one of the same machine: no cycle changes the parameters, a reset
included (log entry 17). -/
def Obligations.EveryCycleHasANextState : Prop := ∀ s : State, ∃ t, step s = .next t ∧ t.config = s.config

/-- R47, R48, R50: the FIFO in a cycle without reset: at most the oldest word leaves, at most one word is
appended, and the push is decided by the level at the start of the cycle. -/
def Obligations.FifoKeepsOrder : Prop :=
  ∀ s t : State, NoReset s → step s = .next t →
    ∃ kept pushed, t.fifo = kept ++ pushed ∧ (kept = s.fifo ∨ (s.fifo ≠ [] ∧ kept = s.fifo.tail))
      ∧ pushed.length ≤ 1 ∧ (pushed ≠ [] → s.fifo.length < s.config.fifoDepth)
      ∧ (kept ≠ s.fifo → InTick s ∧ t.osr = s.fifo.headD 0 ∧ t.osrCount = 0)

/-- R50: in the cycle of a push that is also a tick, the pop takes the head of the FIFO as it stood at the start of
the cycle; the pushed word goes behind what remains if that FIFO had room, although the pop makes room; it is not
popped in its own cycle. -/
def Obligations.PushAndPopInOneCycle : Prop :=
  ∀ (s e : State) (a : HostAccess) (w : Word), s.nextPort = ⟨true, some a⟩ →
    (decodeAccess s.config a = .ok (.txfW w)
      ∨ ∃ v, decodeAccess s.config a = .ok (.pixpushW v) ∧ w = pack (pixelOfRegister v)) →
    InTick s → encTick (started s) = .next e →
    (e.fifo = s.fifo ∨ (s.fifo = e.osr :: e.fifo ∧ e.osrCount = 0))
    ∧ ∃ t, step s = .next t ∧ t.osr = e.osr ∧ t.osrCount = e.osrCount
      ∧ (s.fifo.length < s.config.fifoDepth → t.fifo = e.fifo ++ [w] ∧ t.dbg = e.dbg)
      ∧ (s.config.fifoDepth ≤ s.fifo.length → t.fifo = e.fifo ∧ t.dbg = { e.dbg with txover := true })

/-- Two fault causes never coincide, and a fault ENC enters wins over any host access of the same cycle (inferences
the spec marks as its own; the order the model gives the cycle is log entry 2). -/
def Obligations.SameCycleEventsAreOrdered : Prop :=
  (∀ s h : State, s.en = true → s.clkValid = true → s.fault.code = 0 →
    hostCycle s.nextPort.access (started s) = .next h → h.fault = s.fault ∧ h.wsOut = s.wsOut)
  ∧ ∀ s t : State, NoReset s → InTick s → s.clkValid = true → s.fault.code = 0 → s.delayCtr = 0 →
    decodeMicro s.fetchWord = .error .illegalWord → step s = .next t →
    t.en = false ∧ t.wsOut = false ∧ t.fault = ⟨1, s.pc, s.fetchWord⟩

/-- A cycle in which `rst_n = 0` is sampled gives every state element its reset value, whatever else would have
happened. That X is unwritten and IMEM lists no word is how the model holds "unspecified" (log entries 3 and 4). -/
def Obligations.ResetCycleResetsEverything : Prop :=
  ∀ s : State, s.nextPort.rstN = false →
    ∃ t, step s = .next t ∧ t.config = s.config ∧ t.xWritten = false ∧ t.pc = 0 ∧ t.delayCtr = 0 ∧ t.osr = 0
      ∧ t.osrCount = 32 ∧ t.wsOut = false ∧ t.wsOe = false ∧ t.en = false
      ∧ t.dbg = ⟨false, false, false⟩ ∧ t.fault = ⟨0, 0, 0⟩ ∧ t.sysclk = 0 ∧ t.clkInt = 0
      ∧ t.clkFrac = 0 ∧ t.clkValid = false ∧ t.acc = 0 ∧ t.wrapBottom = 0 ∧ t.wrapTop = 31
      ∧ t.owned = false ∧ (∀ a, t.imem.read a = none) ∧ t.fifo = []
      ∧ t.palDone = false ∧ t.palBusy = false ∧ t.palTimer = 0

/-- The reset state seen from outside, with any legal parameters (an inference the spec marks as its own). -/
def Obligations.ResetStateFromOutside : Prop :=
  ∀ c : Config, c.legal = true →
  let s := State.resetOf c
  s.wsOe = false ∧ s.wsOut = false ∧ s.txDreq = true ∧ s.palDonePort = false ∧ s.faultPort = false
  ∧ s.en = false
  ∧ exec .statR s = .next { s with hRdata := some 0x00000002#32 }
  ∧ exec .clkdivR s = .next { s with hRdata := some 0#32 }
  ∧ exec .wrapR s = .next { s with hRdata := some 0x00001F00#32 }
  ∧ exec .claimR s = .next { s with owned := true, hRdata := some 1#32 }

/-- In a cycle that is no tick no ENC state changes (the pin level only by a fault 2 the host causes), nothing leaves
the FIFO, and with EN = 0 the accumulator is cleared. -/
def Obligations.NoTickFreezesEnc : Prop :=
  ∀ s t : State, NoReset s → ¬ InTick s → step s = .next t →
    SameEnc s t ∧ s.fifo <+: t.fifo
    ∧ (t.wsOut = s.wsOut ∨ (t.wsOut = false ∧ t.fault.code ≠ 0))
    ∧ (s.en = false → t.acc = 0)

/-- R116: the accumulator's step in every cycle without reset: cleared with EN = 0, `acc + Q - 256` in a tick,
`acc - 256` in a cycle between ticks; with EN = 1 it stays below Q. -/
def Obligations.TickgenStepsAccumulator : Prop :=
  ∀ s t : State, NoReset s → step s = .next t →
    let q := s.clkInt.toNat * 256 + s.clkFrac.toNat
    (s.en = false → t.acc = 0)
    ∧ (s.en = true → 256 ≤ q → s.acc.toNat < q →
        (s.acc.toNat < 256 → t.acc.toNat = s.acc.toNat + q - 256)
        ∧ (256 ≤ s.acc.toNat → t.acc.toNat = s.acc.toNat - 256)
        ∧ t.acc.toNat < q)

/-- With EN set in one cycle and 1 from the next cycle on, the ticks are exactly the cycles `floor(k*Q/256)` counted
from that next cycle (an inference the spec marks as its own). -/
def Obligations.TicksAreFloorMultiples : Prop :=
  ∀ (before : State) (run : Nat → State), before.en = false → step before = .next (run 0) →
    IsRun run → (∀ n, (run n).en = true) →
    let q := (run 0).clkInt.toNat * 256 + (run 0).clkFrac.toNat
    256 ≤ q → ∀ n, InTick (run n) ↔ ∃ k, n = k * q / 256

/-! ### Whole-machine rules -/

/-- Every cycle keeps the invariant of the machine (Safety.lean): the parameters stay legal, the FIFO and the OSR count stay in their ranges,
the memories keep their canonical form, EN implies a usable divider and no fault. -/
def Obligations.StepKeepsInvariant : Prop :=
  ∀ s t : State, s.Inv → step s = .next t → t.Inv

/-- The reset state has the invariant, with any legal parameters. -/
def Obligations.ResetHasInvariant : Prop :=
  (∀ c : Config, c.legal = true → (State.resetOf c).Inv) ∧ State.reset.Inv

/-- CTRL.EN = 1 implies CLK_VALID = 1 and FAULT.CODE = 0, kept by every cycle on its own (an inference the spec marks
as its own). -/
def Obligations.EnabledImpliesClockAndNoFault : Prop :=
  ∀ s t : State, (s.en = true → s.clkValid = true ∧ s.fault.code = 0) → step s = .next t →
    (t.en = true → t.clkValid = true ∧ t.fault.code = 0)

/-- R204: fault entry keeps the first fault, clears EN, drives the pin low, and changes nothing else; from the next
cycle the `fault` port and STAT.HALTED read 1, ENC and TICKGEN are frozen and `acc` is cleared. -/
def Obligations.FaultEntryHaltsTheEncoder : Prop :=
  ∀ (code : BitVec 4) (fpc : BitVec 5) (fins : Half) (s : State), code ≠ 0 →
    let t := s.raiseFault code fpc fins
    t = { s with fault := if s.fault.code = 0 then ⟨code, fpc, fins⟩ else s.fault
                 en := false
                 wsOut := false }
    ∧ t.faultPort = true ∧ t.halted = true
    ∧ ∀ u, NoReset t → step t = .next u →
        SameEnc t u ∧ u.acc = 0 ∧ u.en = false ∧ u.wsOut = false ∧ u.fault = t.fault

/-- In the halted state nothing but reset clears FAULT or sets EN; ENC stays frozen, the pin stays low, and the FIFO
only fills. The record surviving a second cause is an inference the spec marks as its own. -/
def Obligations.FaultIsPermanent : Prop :=
  ∀ s t : State, s.fault.code ≠ 0 → s.en = false → s.wsOut = false → NoReset s → step s = .next t →
    t.fault = s.fault ∧ t.en = false ∧ t.wsOut = false ∧ SameEnc s t ∧ s.fifo <+: t.fifo

/-- X is written only by an `OUT X, 1` that completes in a tick. -/
def Obligations.XWrittenOnlyByOut : Prop :=
  ∀ s t : State, NoReset s → step s = .next t → (t.x ≠ s.x ∨ t.xWritten ≠ s.xWritten) →
    InTick s ∧ s.delayCtr = 0 ∧ s.osrCount.toNat < s.config.pullThresh
    ∧ (∃ side delay, decodeMicro s.fetchWord = .ok (.outX side delay))
    ∧ t.x = s.osr.getLsbD 31 ∧ t.xWritten = true

/-- The pin direction changes only by `SET PINDIRS` in a tick, to its operand. -/
def Obligations.PinDirectionOnlyBySetPindirs : Prop :=
  ∀ s t : State, NoReset s → step s = .next t → t.wsOe ≠ s.wsOe →
    InTick s ∧ s.delayCtr = 0
    ∧ ∃ side delay, decodeMicro s.fetchWord = .ok (.setPindirs t.wsOe side delay)

/-- R115: CLKDIV changes only by CLKCFG and CLK_VALID only by CLKCFG or a SYSCLK write, each with EN = 0. -/
def Obligations.DividerChangesOnlyByConfigurator : Prop :=
  ∀ s t : State, NoReset s → step s = .next t →
    ((t.clkInt ≠ s.clkInt ∨ t.clkFrac ≠ s.clkFrac) →
      s.en = false ∧ ∃ v, s.nextPort.access = some ⟨true, 0x06#8, v⟩)
    ∧ (t.clkValid ≠ s.clkValid → s.en = false ∧
      ∃ v, s.nextPort.access = some ⟨true, 0x06#8, v⟩ ∨ s.nextPort.access = some ⟨true, 0x04#8, v⟩)

/-- Instruction memory, WRAP and SYSCLK never change while EN = 1, so a fetch never races a write. -/
def Obligations.ProgramFixedWhileEnabled : Prop :=
  ∀ s t : State, NoReset s → s.en = true → step s = .next t →
    t.imem = s.imem ∧ (∀ a, t.imemWord a = s.imemWord a) ∧ t.wrapBottom = s.wrapBottom
    ∧ t.wrapTop = s.wrapTop ∧ t.sysclk = s.sysclk

/-! ### Clock arithmetic and the pixel codec -/

/-- The truncated divider is below the ideal ratio by less than 1/256, for every legal CYCLES_PER_BIT it stays below
2^19, and for CYCLES_PER_BIT = 10 the usable clocks are exactly those of at least 8 MHz (the bounds are
inferences the spec marks as its own). -/
def Obligations.DividerIsAccurate : Prop :=
  (∀ sysclk : Word,
    dividerUsable (dividerOf wsenc sysclk.toNat) = true ↔ 8000000 ≤ sysclk.toNat)
  ∧ ∀ (c : Config) (sysclk : Nat), c.legal = true → sysclk < 2 ^ 32 →
    let q := dividerOf c sysclk
    (q : ℚ) / 256 ≤ (sysclk / 1000 : Nat) / (800 * (c.t1 + c.t2 + c.t3) : ℚ)
    ∧ (sysclk / 1000 : Nat) / (800 * (c.t1 + c.t2 + c.t3) : ℚ) - (q : ℚ) / 256 < 1 / 256
    ∧ q < 2 ^ 19

/-- PACK is `(g << 24) | (r << 16) | (b << 8)`, its low byte is zero, and unpacking gives the pixel back (the last is
an inference the spec marks as its own). -/
def Obligations.PackLayout : Prop :=
  ∀ p : Pixel,
    (pack p).toNat = p.g.toNat * 2 ^ 24 + p.r.toNat * 2 ^ 16 + p.b.toNat * 2 ^ 8
    ∧ (pack p).extractLsb' 24 8 = p.g ∧ (pack p).extractLsb' 16 8 = p.r
    ∧ (pack p).extractLsb' 8 8 = p.b ∧ (pack p).extractLsb' 0 8 = 0
    ∧ unpack (pack p) = p

/-! ### COLOR -/

/-- `GammaEncode(u)` is the largest code whose threshold is at most u, for every u in 0..65535; it is non-decreasing
and onto 0..255 (the last two are inferences the spec marks as its own). -/
def Obligations.GammaEncodeIsLargestCode : Prop :=
  (∀ u, u ≤ 65535 →
    gammaEncode u ≤ 255 ∧ gammaLut[gammaEncode u]?.getD 0 ≤ u
    ∧ ∀ c, c ≤ 255 → gammaLut[c]?.getD 0 ≤ u → c ≤ gammaEncode u)
  ∧ (∀ u v, u ≤ v → gammaEncode u ≤ gammaEncode v)
  ∧ ∀ c, c ≤ 255 → ∃ u, u ≤ 65535 ∧ gammaEncode u = c

/-- R183: GAMMA_LUT[0] = 0 and GAMMA_LUT[c] = ceil(65535 * eotf((c - 1/2) / 255)). -/
def Obligations.GammaLutFromTransferFunction : Prop :=
  gammaLut.length = 256 ∧ gammaLut[0]? = some 0
  ∧ ∀ c : ℕ, 1 ≤ c → c ≤ 255 →
      gammaLut[c]? = some ⌈65535 * refEotf (((c : ℝ) - 1 / 2) / 255)⌉.toNat

/-- R181: every LIN16 the model allows is within COLOR_EPS of 65535 times the clamped reference over the real
numbers, whatever the free choice of the datapath (log entries 6 and 11). -/
def Obligations.Lin16WithinColorEps : Prop :=
  ∀ k ch, k < wsenc.nLeds →
    lin16 wsenc k ch ≤ 65535 ∧ |(lin16 wsenc k ch : ℝ) - 65535 * refClamped wsenc k ch| ≤ 4

/-- The pixels of the default palette (the table of spec/95_test_vectors.md section 2.5, which the spec derives) are
determined but for the green of colour 9, which may be 95 or 96, whatever the free choice of the datapath (log
entry 6). -/
def Obligations.DefaultPalettePixels : Prop :=
  (∀ k, k < 12 → k ≠ 9 → (palette.read k).map entryImage =
    ([0x00BD3F41#32, 0x00A75414#32, 0x00836800#32, 0x00557500#32, 0x00007D35#32, 0x00008066#32,
      0x00008097#32, 0x00007CBC#32, 0x000072CB#32, 0#32, 0x00A1489E#32, 0x00BD3770#32] : List Word)[k]?)
  ∧ ((palette.read 9).map entryImage = some 0x00625FC0#32
    ∨ (palette.read 9).map entryImage = some 0x006260C0#32)
  ∧ ∀ k, 12 ≤ k → palette.read k = none

/-- The polar stages 4, 6 and 7 of the reference are a plane rotation of `(a, b)`, a grey included (an inference the
spec marks as its own). -/
def Obligations.HueRotationIsPlaneRotation : Prop :=
  ∀ (c : Config) (k : ℕ),
    let theta := radians (k * (360 / c.nLeds))
    refAAt c k = refA c * Real.cos theta - refB c * Real.sin theta
    ∧ refBAt c k = refA c * Real.sin theta + refB c * Real.cos theta

/-- Consecutive hues differ by 360/N modulo 360, the closing delta included, and N steps return to the base hue (an
inference the spec marks as its own). -/
def Obligations.HueRotationCloses : Prop :=
  ∀ c : Config, 1 ≤ c.nLeds →
    (∀ k : ℕ, k + 1 < c.nLeds →
      mod360 (refHueAt c (k + 1) - refHueAt c k) = mod360 (360 / c.nLeds))
    ∧ mod360 (refHueAt c 0 - refHueAt c (c.nLeds - 1)) = mod360 (360 / c.nLeds)
    ∧ refHueAt c c.nLeds = refHueAt c 0

/-- With DARKEN = 1 the stages 2 to 9 cancel for colour 0, and a base colour of 8-bit codes comes back as the pixel of
colour 0 with error 0, for every LIN16 the contract admits and for the model's own choice among them (an inference
the spec marks as its own; log entries 6 and 11). -/
def Obligations.UndarkenedBaseRoundTrips : Prop :=
  ∀ c : Config, c.darken.num = c.darken.den → 0 < c.darken.den →
    (∀ i, refLin c 0 i = refEotf (refBase c i))
    ∧ ∀ p : Pixel, c.legal = true → c.baseR.isCode p.r → c.baseG.isCode p.g → c.baseB.isCode p.b →
        (∀ lin : Channel → Nat, (∀ ch, LinAdmitted c 0 ch (lin ch)) → pixelOfLin lin = p)
        ∧ palettePixel c 0 = p
end

