-- ==== Sys2Proof/Laws/Memory.lean ====
section
/-! SUPPORT. The laws of a memory: a read after a write, what a write leaves alone, and the canonical form kept. -/

namespace Sys2Proof.Machine

/-- A write is read back at its address. -/
@[simp] theorem Memory.read_write_same {w : Nat} (m : Memory w) (a : Nat) (v : BitVec w) :
    Memory.read (Memory.write m a v) a = some v := by
  induction m with
  | nil => simp [Memory.write, Memory.read]
  | cons e rest ih =>
    obtain ⟨b, u⟩ := e
    simp only [Memory.write]
    split
    · simp [Memory.read]
    · split
      · simp [Memory.read]
      · next h => simpa [Memory.read, h] using ih

/-- A write leaves every other address as it was. -/
theorem Memory.read_write_other {w : Nat} (m : Memory w) {a c : Nat} (v : BitVec w) (h : c ≠ a) :
    Memory.read (Memory.write m a v) c = Memory.read m c := by
  induction m with
  | nil => simp [Memory.write, Memory.read, h]
  | cons e rest ih =>
    obtain ⟨b, u⟩ := e
    simp only [Memory.write]
    split
    · simp [Memory.read, h]
    · split
      · next hab => subst hab; simp [Memory.read, h]
      · simp [Memory.read, ih]

/-- A list that rises from `lo` also rises from anything lower. -/
theorem Memory.risingFrom_mono {w size : Nat} {lo lo' : Nat} {m : Memory w} (h : lo' ≤ lo)
    (hm : Memory.risingFrom size lo m = true) : Memory.risingFrom size lo' m = true := by
  cases m with
  | nil => rfl
  | cons e rest =>
    obtain ⟨b, u⟩ := e
    simp only [Memory.risingFrom, Bool.and_eq_true, decide_eq_true_eq] at hm ⊢
    exact ⟨⟨by omega, hm.1.2⟩, hm.2⟩

/-- A write inside the memory keeps the addresses rising. -/
theorem Memory.risingFrom_write {w size : Nat} (m : Memory w) {lo a : Nat} (v : BitVec w)
    (hlo : lo ≤ a) (ha : a < size) (hm : Memory.risingFrom size lo m = true) :
    Memory.risingFrom size lo (Memory.write m a v) = true := by
  induction m generalizing lo with
  | nil => simp [Memory.write, Memory.risingFrom, hlo, ha]
  | cons e rest ih =>
    obtain ⟨b, u⟩ := e
    simp only [Memory.risingFrom, Bool.and_eq_true, decide_eq_true_eq] at hm
    simp only [Memory.write]
    split
    · next h => simp only [Memory.risingFrom, Bool.and_eq_true, decide_eq_true_eq]
                exact ⟨⟨hlo, ha⟩, ⟨by omega, hm.1.2⟩, hm.2⟩
    · split
      · next h => subst h; simpa [Memory.risingFrom, hm.1.1, hm.1.2] using hm.2
      · simp only [Memory.risingFrom, Bool.and_eq_true, decide_eq_true_eq]
        exact ⟨hm.1, ih (by omega) hm.2⟩

/-- Every write inside the memory keeps the canonical form. -/
theorem Memory.wf_write {w size : Nat} (m : Memory w) {a : Nat} (v : BitVec w) (ha : a < size)
    (hm : m.wf size = true) : Memory.wf size (Memory.write m a v) = true :=
  Memory.risingFrom_write m v (Nat.zero_le a) ha hm

/-- The empty memory, which reset leaves, is in canonical form. -/
theorem Memory.wf_nil {w size : Nat} : Memory.wf size ([] : Memory w) = true := rfl

/-- No address below the first possible one is listed. -/
theorem Memory.read_below {w size lo a : Nat} {m : Memory w} (hm : Memory.risingFrom size lo m = true)
    (h : a < lo) : Memory.read m a = none := by
  induction m generalizing lo with
  | nil => rfl
  | cons e rest ih =>
    obtain ⟨b, u⟩ := e
    simp only [Memory.risingFrom, Bool.and_eq_true, decide_eq_true_eq] at hm
    have hab : a ≠ b := by omega
    simpa [Memory.read, hab] using ih hm.2 (by omega)

/-- Two memories that rise from `lo` and read alike are the same list. -/
theorem Memory.risingFrom_ext {w size : Nat} {m n : Memory w} {lo : Nat}
    (hm : Memory.risingFrom size lo m = true) (hn : Memory.risingFrom size lo n = true)
    (h : ∀ a, Memory.read m a = Memory.read n a) : m = n := by
  induction m generalizing n lo with
  | nil =>
    cases n with
    | nil => rfl
    | cons e rest => simpa [Memory.read] using h e.1
  | cons e rest ih =>
    obtain ⟨b, u⟩ := e
    cases n with
    | nil => simpa [Memory.read] using h b
    | cons e' rest' =>
      obtain ⟨b', u'⟩ := e'
      simp only [Memory.risingFrom, Bool.and_eq_true, decide_eq_true_eq] at hm hn
      have hbb : b = b' := by
        rcases Nat.lt_trichotomy b b' with hlt | heq | hgt
        · have := h b
          simp [Memory.read, Nat.ne_of_lt hlt, Memory.read_below hn.2 (by omega : b < b' + 1)] at this
        · exact heq
        · have := h b'
          simp [Memory.read, Nat.ne_of_lt hgt, Memory.read_below hm.2 (by omega : b' < b + 1)] at this
      subst hbb
      have huu : u = u' := by simpa [Memory.read] using h b
      subst huu
      congr 1
      refine ih hm.2 hn.2 fun a => ?_
      by_cases hab : a < b + 1
      · rw [Memory.read_below hm.2 hab, Memory.read_below hn.2 hab]
      · have hne : a ≠ b := by omega
        simpa [Memory.read, hne] using h a

/-- Memories in canonical form that read alike are equal data. -/
theorem Memory.ext_of_read {w size : Nat} {m n : Memory w} (hm : m.wf size = true) (hn : n.wf size = true)
    (h : ∀ a, m.read a = n.read a) : m = n :=
  Memory.risingFrom_ext hm hn h

end Sys2Proof.Machine
end

