-- ==== Sys2Proof/Laws/Color.lean ====
section
/-! SUPPORT. The colour engine: what the palette holds, the range of LIN16, and the fixed-point stages that
cancel exactly for colour 0 with DARKEN = 1. -/

namespace Sys2Proof.Machine

/-! ### The palette -/

theorem risingFrom_range' {w : Nat} (size : Nat) (f : Nat → BitVec w) :
    ∀ n lo, lo + n ≤ size → Memory.risingFrom size lo ((List.range' lo n).map fun k => (k, f k)) = true
  | 0, _, _ => rfl
  | n + 1, lo, h => by
    simp only [List.range'_succ, List.map_cons, Memory.risingFrom, Bool.and_eq_true, decide_eq_true_eq]
    exact ⟨⟨Nat.le_refl lo, by omega⟩, risingFrom_range' size f n (lo + 1) (by omega)⟩

/-- The palette is in canonical form. -/
theorem paletteOf_wf (c : Config) : (paletteOf c).wf c.nLeds = true := by
  unfold paletteOf Memory.wf
  rw [List.range_eq_range']
  exact risingFrom_range' c.nLeds _ c.nLeds 0 (by omega)

theorem palette_wf : palette.wf wsenc.nLeds = true := paletteOf_wf wsenc

theorem read_map_range' {w : Nat} (f : Nat → BitVec w) (k : Nat) :
    ∀ n lo, Memory.read ((List.range' lo n).map fun j => (j, f j)) k
      = if lo ≤ k ∧ k < lo + n then some (f k) else none
  | 0, lo => by
    rw [if_neg (by omega)]
    rfl
  | n + 1, lo => by
    simp only [List.range'_succ, List.map_cons, Memory.read]
    by_cases h : k = lo
    · rw [if_pos h, if_pos (by omega), h]
    · rw [if_neg h, read_map_range' f k n (lo + 1)]
      by_cases hk : lo + 1 ≤ k ∧ k < lo + 1 + n
      · rw [if_pos hk, if_pos (by omega)]
      · rw [if_neg hk, if_neg (by omega)]

/-- Entry `k` of the palette is `Pixel_k` (R185). -/
theorem paletteOf_read (c : Config) (k : Nat) :
    (paletteOf c).read k = if k < c.nLeds then some (pixelEntry (palettePixel c k)) else none := by
  unfold paletteOf
  rw [List.range_eq_range', read_map_range']
  simp

/-! ### The range of LIN16 -/

theorem lin16Low_le (c : Config) (k : Nat) (ch : Channel) : lin16Low c k ch ≤ lin16 c k ch :=
  Nat.le_add_right _ _

/-- LIN16 is at most the largest value the contract admits, if it admits one. -/
theorem lin16_le_high {c : Config} {k : Nat} {ch : Channel} (h : lin16Low c k ch ≤ lin16High c k ch) :
    lin16 c k ch ≤ lin16High c k ch := by
  have hlt : Config.freeLin16 c k ch % lin16Count c k ch < lin16Count c k ch :=
    Nat.mod_lt _ (Nat.lt_of_lt_of_le Nat.one_pos (Nat.le_max_left _ _))
  have hc : lin16Count c k ch = lin16High c k ch + 1 - lin16Low c k ch := Nat.max_eq_right (by omega)
  unfold lin16
  omega

/-! ### Colour 0 with DARKEN = 1 -/

theorem trigSeries_zero (fuel i : Nat) : trigSeries 0 fuel i 0 = 0 := by
  induction fuel generalizing i with
  | zero => rfl
  | succ fuel ih => simp [trigSeries, ih]

theorem hueAngle_zero (n : Nat) : hueAngle n 0 = 0 := by simp [hueAngle]

theorem hueCos_zero (n : Nat) : hueCos n 0 = fixOne := by
  rw [hueCos, hueAngle_zero, trigSeries]
  simp [trigSeries_zero]

theorem hueSin_zero (n : Nat) : hueSin n 0 = 0 := by
  rw [hueSin, hueAngle_zero, trigSeries_zero]

/-- Colour 0 is not rotated. -/
theorem rotateHue_zero (n : Nat) (t : Triple) : rotateHue n 0 t = t := by
  have h : (fixOne : Int) ≠ 0 := by decide
  simp [rotateHue, hueCos_zero, hueSin_zero, Int.mul_ediv_cancel _ h]

/-- DARKEN = 1 changes nothing. -/
theorem darkenLab_one {d : Frac} (h : d.num = d.den) (hd : 0 < d.den) (t : Triple) : darkenLab d t = t := by
  have hd' : (d.den : Int) ≠ 0 := by omega
  simp [darkenLab, h, Int.mul_ediv_cancel_left _ hd']

/-- The linear parts of stages 3 and 8 cancel exactly, so that only `labFix` and `labInvFix` remain. -/
theorem labToXyz_xyzToLab (t : Triple) : labToXyz (xyzToLab t) =
    ⟨95047 * labInvFix (labFix (t.u * 100000 / 95047)) / 100000, labInvFix (labFix t.v),
     108883 * labInvFix (labFix (t.w * 100000 / 108883)) / 100000⟩ := by
  have hy (y : Int) : (116 * y - 16 * fixOne + 16 * fixOne) / 116 = y := by omega
  have hx (x y : Int) : y + 500 * (x - y) / 500 = x := by omega
  have hz (z y : Int) : y - 200 * (y - z) / 200 = z := by omega
  simp only [labToXyz, xyzToLab, hy, hx, hz]

end Sys2Proof.Machine
end

