-- ==== Sys2Proof/Laws/Config.lean ====
section
/-! SUPPORT. What the legal ranges of spec/00_scope.md R6 give, the direction of the OSR, and the words of the
canonical program for every legal T1, T2, T3. -/

namespace Sys2Proof

@[simp] theorem ShiftDir.nextBit_eq (d : ShiftDir) (w : Word) : d.nextBit w = w.getLsbD 31 := by
  cases d
  exact BitVec.msb_eq_getLsbD_last w

@[simp] theorem ShiftDir.shift_eq (d : ShiftDir) (w : Word) : d.shift w = w <<< 1 := by
  cases d
  rfl

/-- The legal ranges the machine's operations rest on. -/
structure Config.Ranges (c : Config) : Prop where
  t1 : 1 ≤ c.t1 ∧ c.t1 ≤ 16
  t2 : 1 ≤ c.t2 ∧ c.t2 ≤ 16
  t3 : 1 ≤ c.t3 ∧ c.t3 ≤ 16
  targetKhz : c.targetKhz = 800
  pullThresh : c.pullThresh = 24
  nLeds : 1 ≤ c.nLeds ∧ c.nLeds ≤ 128
  fifoDepth : 1 ≤ c.fifoDepth ∧ c.fifoDepth ≤ 15
  imemSize : c.imemSize = 32
  colorEps : c.colorEps ≤ 9
  palLatency : 1 ≤ c.palLatency

theorem Config.ranges_of_legal {c : Config} (h : c.legal = true) : c.Ranges := by
  simp only [Config.legal, Bool.and_eq_true, decide_eq_true_eq] at h
  constructor <;> omega

/-- This hardware's values are legal. -/
theorem wsenc_legal : wsenc.legal = true := by
  simp [Config.legal, wsenc, Config.fracInUnit]

namespace Machine

/-- The words of the canonical program decode to its five instructions (R96). -/
theorem canonicalProgram_decode {c : Config} (h : c.legal = true) :
    (canonicalProgram c.t1 c.t2 c.t3).map decodeMicro =
      [.ok (.setPindirs true false 0), .ok (.outX false (BitVec.ofNat 4 (c.t3 - 1))),
       .ok (.jmpNotX true (BitVec.ofNat 4 (c.t1 - 1)) 4), .ok (.jmp true (BitVec.ofNat 4 (c.t2 - 1)) 1),
       .ok (.nop false (BitVec.ofNat 4 (c.t2 - 1)))] := by
  obtain ⟨⟨a1, a2⟩, ⟨b1, b2⟩, ⟨c1, c2⟩, -⟩ := Config.ranges_of_legal h
  have outs : ∀ n : Fin 16, decodeMicro (0x6021#16 ||| BitVec.ofNat 16 (n.val * 2 ^ 8))
      = .ok (.outX false (BitVec.ofNat 4 n.val)) := by decide
  have jmpXs : ∀ n : Fin 16, decodeMicro (0x1024#16 ||| BitVec.ofNat 16 (n.val * 2 ^ 8))
      = .ok (.jmpNotX true (BitVec.ofNat 4 n.val) 4) := by decide
  have jmps : ∀ n : Fin 16, decodeMicro (0x1001#16 ||| BitVec.ofNat 16 (n.val * 2 ^ 8))
      = .ok (.jmp true (BitVec.ofNat 4 n.val) 1) := by decide
  have nops : ∀ n : Fin 16, decodeMicro (0xA042#16 ||| BitVec.ofNat 16 (n.val * 2 ^ 8))
      = .ok (.nop false (BitVec.ofNat 4 n.val)) := by decide
  have first : decodeMicro 0xE081#16 = .ok (.setPindirs true false 0) := by decide
  simp only [canonicalProgram, List.map_cons, List.map_nil, first, outs ⟨c.t3 - 1, by omega⟩,
    jmpXs ⟨c.t1 - 1, by omega⟩, jmps ⟨c.t2 - 1, by omega⟩, nops ⟨c.t2 - 1, by omega⟩]

end Machine

end Sys2Proof
end

