-- ==== Sys2Proof/Laws/State.lean ====
section
/-! SUPPORT. One lemma per field per update of the state: the named updates of Machine/Ops.lean, Clock.lean, Color.lean
and Cycle.lean, so that no later proof unfolds a record update. -/

namespace Sys2Proof.Machine

/-! ### `State.answer` -/

@[simp] theorem State.answer_config (s : State) (v : Word) : (s.answer v).config = s.config := rfl
@[simp] theorem State.answer_x (s : State) (v : Word) : (s.answer v).x = s.x := rfl
@[simp] theorem State.answer_xWritten (s : State) (v : Word) :
    (s.answer v).xWritten = s.xWritten := rfl
@[simp] theorem State.answer_pc (s : State) (v : Word) : (s.answer v).pc = s.pc := rfl
@[simp] theorem State.answer_delayCtr (s : State) (v : Word) :
    (s.answer v).delayCtr = s.delayCtr := rfl
@[simp] theorem State.answer_osr (s : State) (v : Word) : (s.answer v).osr = s.osr := rfl
@[simp] theorem State.answer_osrCount (s : State) (v : Word) :
    (s.answer v).osrCount = s.osrCount := rfl
@[simp] theorem State.answer_wsOut (s : State) (v : Word) : (s.answer v).wsOut = s.wsOut := rfl
@[simp] theorem State.answer_wsOe (s : State) (v : Word) : (s.answer v).wsOe = s.wsOe := rfl
@[simp] theorem State.answer_en (s : State) (v : Word) : (s.answer v).en = s.en := rfl
@[simp] theorem State.answer_dbg (s : State) (v : Word) : (s.answer v).dbg = s.dbg := rfl
@[simp] theorem State.answer_fault (s : State) (v : Word) : (s.answer v).fault = s.fault := rfl
@[simp] theorem State.answer_sysclk (s : State) (v : Word) : (s.answer v).sysclk = s.sysclk := rfl
@[simp] theorem State.answer_clkInt (s : State) (v : Word) : (s.answer v).clkInt = s.clkInt := rfl
@[simp] theorem State.answer_clkFrac (s : State) (v : Word) :
    (s.answer v).clkFrac = s.clkFrac := rfl
@[simp] theorem State.answer_clkValid (s : State) (v : Word) :
    (s.answer v).clkValid = s.clkValid := rfl
@[simp] theorem State.answer_acc (s : State) (v : Word) : (s.answer v).acc = s.acc := rfl
@[simp] theorem State.answer_wrapBottom (s : State) (v : Word) :
    (s.answer v).wrapBottom = s.wrapBottom := rfl
@[simp] theorem State.answer_wrapTop (s : State) (v : Word) :
    (s.answer v).wrapTop = s.wrapTop := rfl
@[simp] theorem State.answer_owned (s : State) (v : Word) : (s.answer v).owned = s.owned := rfl
@[simp] theorem State.answer_imem (s : State) (v : Word) : (s.answer v).imem = s.imem := rfl
@[simp] theorem State.answer_fifo (s : State) (v : Word) : (s.answer v).fifo = s.fifo := rfl
@[simp] theorem State.answer_pal (s : State) (v : Word) : (s.answer v).pal = s.pal := rfl
@[simp] theorem State.answer_palDone (s : State) (v : Word) :
    (s.answer v).palDone = s.palDone := rfl
@[simp] theorem State.answer_palBusy (s : State) (v : Word) :
    (s.answer v).palBusy = s.palBusy := rfl
@[simp] theorem State.answer_palTimer (s : State) (v : Word) :
    (s.answer v).palTimer = s.palTimer := rfl
@[simp] theorem State.answer_inputs (s : State) (v : Word) : (s.answer v).inputs = s.inputs := rfl
@[simp] theorem State.answer_hRdata (s : State) (v : Word) : (s.answer v).hRdata = some v := rfl
@[simp] theorem State.answer_draws (s : State) (v : Word) : (s.answer v).draws = s.draws := rfl
@[simp] theorem State.answer_resets (s : State) (v : Word) : (s.answer v).resets = s.resets := rfl

/-! ### `State.setSide` -/

@[simp] theorem State.setSide_config (s : State) (side : Bool) :
    (s.setSide side).config = s.config := rfl
@[simp] theorem State.setSide_x (s : State) (side : Bool) : (s.setSide side).x = s.x := rfl
@[simp] theorem State.setSide_xWritten (s : State) (side : Bool) :
    (s.setSide side).xWritten = s.xWritten := rfl
@[simp] theorem State.setSide_pc (s : State) (side : Bool) : (s.setSide side).pc = s.pc := rfl
@[simp] theorem State.setSide_delayCtr (s : State) (side : Bool) :
    (s.setSide side).delayCtr = s.delayCtr := rfl
@[simp] theorem State.setSide_osr (s : State) (side : Bool) : (s.setSide side).osr = s.osr := rfl
@[simp] theorem State.setSide_osrCount (s : State) (side : Bool) :
    (s.setSide side).osrCount = s.osrCount := rfl
@[simp] theorem State.setSide_wsOut (s : State) (side : Bool) : (s.setSide side).wsOut = side := rfl
@[simp] theorem State.setSide_wsOe (s : State) (side : Bool) : (s.setSide side).wsOe = s.wsOe := rfl
@[simp] theorem State.setSide_en (s : State) (side : Bool) : (s.setSide side).en = s.en := rfl
@[simp] theorem State.setSide_dbg (s : State) (side : Bool) : (s.setSide side).dbg = s.dbg := rfl
@[simp] theorem State.setSide_fault (s : State) (side : Bool) :
    (s.setSide side).fault = s.fault := rfl
@[simp] theorem State.setSide_sysclk (s : State) (side : Bool) :
    (s.setSide side).sysclk = s.sysclk := rfl
@[simp] theorem State.setSide_clkInt (s : State) (side : Bool) :
    (s.setSide side).clkInt = s.clkInt := rfl
@[simp] theorem State.setSide_clkFrac (s : State) (side : Bool) :
    (s.setSide side).clkFrac = s.clkFrac := rfl
@[simp] theorem State.setSide_clkValid (s : State) (side : Bool) :
    (s.setSide side).clkValid = s.clkValid := rfl
@[simp] theorem State.setSide_acc (s : State) (side : Bool) : (s.setSide side).acc = s.acc := rfl
@[simp] theorem State.setSide_wrapBottom (s : State) (side : Bool) :
    (s.setSide side).wrapBottom = s.wrapBottom := rfl
@[simp] theorem State.setSide_wrapTop (s : State) (side : Bool) :
    (s.setSide side).wrapTop = s.wrapTop := rfl
@[simp] theorem State.setSide_owned (s : State) (side : Bool) :
    (s.setSide side).owned = s.owned := rfl
@[simp] theorem State.setSide_imem (s : State) (side : Bool) : (s.setSide side).imem = s.imem := rfl
@[simp] theorem State.setSide_fifo (s : State) (side : Bool) : (s.setSide side).fifo = s.fifo := rfl
@[simp] theorem State.setSide_pal (s : State) (side : Bool) : (s.setSide side).pal = s.pal := rfl
@[simp] theorem State.setSide_palDone (s : State) (side : Bool) :
    (s.setSide side).palDone = s.palDone := rfl
@[simp] theorem State.setSide_palBusy (s : State) (side : Bool) :
    (s.setSide side).palBusy = s.palBusy := rfl
@[simp] theorem State.setSide_palTimer (s : State) (side : Bool) :
    (s.setSide side).palTimer = s.palTimer := rfl
@[simp] theorem State.setSide_inputs (s : State) (side : Bool) :
    (s.setSide side).inputs = s.inputs := rfl
@[simp] theorem State.setSide_hRdata (s : State) (side : Bool) :
    (s.setSide side).hRdata = s.hRdata := rfl
@[simp] theorem State.setSide_draws (s : State) (side : Bool) :
    (s.setSide side).draws = s.draws := rfl
@[simp] theorem State.setSide_resets (s : State) (side : Bool) :
    (s.setSide side).resets = s.resets := rfl

/-! ### `State.complete` -/

@[simp] theorem State.complete_config (s : State) (taken : Bool) (addr : BitVec 5) (delay : BitVec 4) :
    (s.complete taken addr delay).config = s.config := rfl
@[simp] theorem State.complete_x (s : State) (taken : Bool) (addr : BitVec 5) (delay : BitVec 4) :
    (s.complete taken addr delay).x = s.x := rfl
@[simp] theorem State.complete_xWritten (s : State) (taken : Bool) (addr : BitVec 5) (delay : BitVec 4) :
    (s.complete taken addr delay).xWritten = s.xWritten := rfl
@[simp] theorem State.complete_pc (s : State) (taken : Bool) (addr : BitVec 5) (delay : BitVec 4) :
    (s.complete taken addr delay).pc = s.nextPc taken addr := rfl
@[simp] theorem State.complete_delayCtr (s : State) (taken : Bool) (addr : BitVec 5) (delay : BitVec 4) :
    (s.complete taken addr delay).delayCtr = delay := rfl
@[simp] theorem State.complete_osr (s : State) (taken : Bool) (addr : BitVec 5) (delay : BitVec 4) :
    (s.complete taken addr delay).osr = s.osr := rfl
@[simp] theorem State.complete_osrCount (s : State) (taken : Bool) (addr : BitVec 5) (delay : BitVec 4) :
    (s.complete taken addr delay).osrCount = s.osrCount := rfl
@[simp] theorem State.complete_wsOut (s : State) (taken : Bool) (addr : BitVec 5) (delay : BitVec 4) :
    (s.complete taken addr delay).wsOut = s.wsOut := rfl
@[simp] theorem State.complete_wsOe (s : State) (taken : Bool) (addr : BitVec 5) (delay : BitVec 4) :
    (s.complete taken addr delay).wsOe = s.wsOe := rfl
@[simp] theorem State.complete_en (s : State) (taken : Bool) (addr : BitVec 5) (delay : BitVec 4) :
    (s.complete taken addr delay).en = s.en := rfl
@[simp] theorem State.complete_dbg (s : State) (taken : Bool) (addr : BitVec 5) (delay : BitVec 4) :
    (s.complete taken addr delay).dbg = s.dbg := rfl
@[simp] theorem State.complete_fault (s : State) (taken : Bool) (addr : BitVec 5) (delay : BitVec 4) :
    (s.complete taken addr delay).fault = s.fault := rfl
@[simp] theorem State.complete_sysclk (s : State) (taken : Bool) (addr : BitVec 5) (delay : BitVec 4) :
    (s.complete taken addr delay).sysclk = s.sysclk := rfl
@[simp] theorem State.complete_clkInt (s : State) (taken : Bool) (addr : BitVec 5) (delay : BitVec 4) :
    (s.complete taken addr delay).clkInt = s.clkInt := rfl
@[simp] theorem State.complete_clkFrac (s : State) (taken : Bool) (addr : BitVec 5) (delay : BitVec 4) :
    (s.complete taken addr delay).clkFrac = s.clkFrac := rfl
@[simp] theorem State.complete_clkValid (s : State) (taken : Bool) (addr : BitVec 5) (delay : BitVec 4) :
    (s.complete taken addr delay).clkValid = s.clkValid := rfl
@[simp] theorem State.complete_acc (s : State) (taken : Bool) (addr : BitVec 5) (delay : BitVec 4) :
    (s.complete taken addr delay).acc = s.acc := rfl
@[simp] theorem State.complete_wrapBottom (s : State) (taken : Bool) (addr : BitVec 5) (delay : BitVec 4) :
    (s.complete taken addr delay).wrapBottom = s.wrapBottom := rfl
@[simp] theorem State.complete_wrapTop (s : State) (taken : Bool) (addr : BitVec 5) (delay : BitVec 4) :
    (s.complete taken addr delay).wrapTop = s.wrapTop := rfl
@[simp] theorem State.complete_owned (s : State) (taken : Bool) (addr : BitVec 5) (delay : BitVec 4) :
    (s.complete taken addr delay).owned = s.owned := rfl
@[simp] theorem State.complete_imem (s : State) (taken : Bool) (addr : BitVec 5) (delay : BitVec 4) :
    (s.complete taken addr delay).imem = s.imem := rfl
@[simp] theorem State.complete_fifo (s : State) (taken : Bool) (addr : BitVec 5) (delay : BitVec 4) :
    (s.complete taken addr delay).fifo = s.fifo := rfl
@[simp] theorem State.complete_pal (s : State) (taken : Bool) (addr : BitVec 5) (delay : BitVec 4) :
    (s.complete taken addr delay).pal = s.pal := rfl
@[simp] theorem State.complete_palDone (s : State) (taken : Bool) (addr : BitVec 5) (delay : BitVec 4) :
    (s.complete taken addr delay).palDone = s.palDone := rfl
@[simp] theorem State.complete_palBusy (s : State) (taken : Bool) (addr : BitVec 5) (delay : BitVec 4) :
    (s.complete taken addr delay).palBusy = s.palBusy := rfl
@[simp] theorem State.complete_palTimer (s : State) (taken : Bool) (addr : BitVec 5) (delay : BitVec 4) :
    (s.complete taken addr delay).palTimer = s.palTimer := rfl
@[simp] theorem State.complete_inputs (s : State) (taken : Bool) (addr : BitVec 5) (delay : BitVec 4) :
    (s.complete taken addr delay).inputs = s.inputs := rfl
@[simp] theorem State.complete_hRdata (s : State) (taken : Bool) (addr : BitVec 5) (delay : BitVec 4) :
    (s.complete taken addr delay).hRdata = s.hRdata := rfl
@[simp] theorem State.complete_draws (s : State) (taken : Bool) (addr : BitVec 5) (delay : BitVec 4) :
    (s.complete taken addr delay).draws = s.draws := rfl
@[simp] theorem State.complete_resets (s : State) (taken : Bool) (addr : BitVec 5) (delay : BitVec 4) :
    (s.complete taken addr delay).resets = s.resets := rfl

/-! ### `State.raiseFault` -/

@[simp] theorem State.raiseFault_config (s : State) (code : BitVec 4) (fpc : BitVec 5) (fins : Half) :
    (s.raiseFault code fpc fins).config = s.config := rfl
@[simp] theorem State.raiseFault_x (s : State) (code : BitVec 4) (fpc : BitVec 5) (fins : Half) :
    (s.raiseFault code fpc fins).x = s.x := rfl
@[simp] theorem State.raiseFault_xWritten (s : State) (code : BitVec 4) (fpc : BitVec 5) (fins : Half) :
    (s.raiseFault code fpc fins).xWritten = s.xWritten := rfl
@[simp] theorem State.raiseFault_pc (s : State) (code : BitVec 4) (fpc : BitVec 5) (fins : Half) :
    (s.raiseFault code fpc fins).pc = s.pc := rfl
@[simp] theorem State.raiseFault_delayCtr (s : State) (code : BitVec 4) (fpc : BitVec 5) (fins : Half) :
    (s.raiseFault code fpc fins).delayCtr = s.delayCtr := rfl
@[simp] theorem State.raiseFault_osr (s : State) (code : BitVec 4) (fpc : BitVec 5) (fins : Half) :
    (s.raiseFault code fpc fins).osr = s.osr := rfl
@[simp] theorem State.raiseFault_osrCount (s : State) (code : BitVec 4) (fpc : BitVec 5) (fins : Half) :
    (s.raiseFault code fpc fins).osrCount = s.osrCount := rfl
@[simp] theorem State.raiseFault_wsOut (s : State) (code : BitVec 4) (fpc : BitVec 5) (fins : Half) :
    (s.raiseFault code fpc fins).wsOut = false := rfl
@[simp] theorem State.raiseFault_wsOe (s : State) (code : BitVec 4) (fpc : BitVec 5) (fins : Half) :
    (s.raiseFault code fpc fins).wsOe = s.wsOe := rfl
@[simp] theorem State.raiseFault_en (s : State) (code : BitVec 4) (fpc : BitVec 5) (fins : Half) :
    (s.raiseFault code fpc fins).en = false := rfl
@[simp] theorem State.raiseFault_dbg (s : State) (code : BitVec 4) (fpc : BitVec 5) (fins : Half) :
    (s.raiseFault code fpc fins).dbg = s.dbg := rfl
@[simp] theorem State.raiseFault_fault (s : State) (code : BitVec 4) (fpc : BitVec 5) (fins : Half) :
    (s.raiseFault code fpc fins).fault = if s.fault.code = 0 then ⟨code, fpc, fins⟩ else s.fault := rfl
@[simp] theorem State.raiseFault_sysclk (s : State) (code : BitVec 4) (fpc : BitVec 5) (fins : Half) :
    (s.raiseFault code fpc fins).sysclk = s.sysclk := rfl
@[simp] theorem State.raiseFault_clkInt (s : State) (code : BitVec 4) (fpc : BitVec 5) (fins : Half) :
    (s.raiseFault code fpc fins).clkInt = s.clkInt := rfl
@[simp] theorem State.raiseFault_clkFrac (s : State) (code : BitVec 4) (fpc : BitVec 5) (fins : Half) :
    (s.raiseFault code fpc fins).clkFrac = s.clkFrac := rfl
@[simp] theorem State.raiseFault_clkValid (s : State) (code : BitVec 4) (fpc : BitVec 5) (fins : Half) :
    (s.raiseFault code fpc fins).clkValid = s.clkValid := rfl
@[simp] theorem State.raiseFault_acc (s : State) (code : BitVec 4) (fpc : BitVec 5) (fins : Half) :
    (s.raiseFault code fpc fins).acc = s.acc := rfl
@[simp] theorem State.raiseFault_wrapBottom (s : State) (code : BitVec 4) (fpc : BitVec 5) (fins : Half) :
    (s.raiseFault code fpc fins).wrapBottom = s.wrapBottom := rfl
@[simp] theorem State.raiseFault_wrapTop (s : State) (code : BitVec 4) (fpc : BitVec 5) (fins : Half) :
    (s.raiseFault code fpc fins).wrapTop = s.wrapTop := rfl
@[simp] theorem State.raiseFault_owned (s : State) (code : BitVec 4) (fpc : BitVec 5) (fins : Half) :
    (s.raiseFault code fpc fins).owned = s.owned := rfl
@[simp] theorem State.raiseFault_imem (s : State) (code : BitVec 4) (fpc : BitVec 5) (fins : Half) :
    (s.raiseFault code fpc fins).imem = s.imem := rfl
@[simp] theorem State.raiseFault_fifo (s : State) (code : BitVec 4) (fpc : BitVec 5) (fins : Half) :
    (s.raiseFault code fpc fins).fifo = s.fifo := rfl
@[simp] theorem State.raiseFault_pal (s : State) (code : BitVec 4) (fpc : BitVec 5) (fins : Half) :
    (s.raiseFault code fpc fins).pal = s.pal := rfl
@[simp] theorem State.raiseFault_palDone (s : State) (code : BitVec 4) (fpc : BitVec 5) (fins : Half) :
    (s.raiseFault code fpc fins).palDone = s.palDone := rfl
@[simp] theorem State.raiseFault_palBusy (s : State) (code : BitVec 4) (fpc : BitVec 5) (fins : Half) :
    (s.raiseFault code fpc fins).palBusy = s.palBusy := rfl
@[simp] theorem State.raiseFault_palTimer (s : State) (code : BitVec 4) (fpc : BitVec 5) (fins : Half) :
    (s.raiseFault code fpc fins).palTimer = s.palTimer := rfl
@[simp] theorem State.raiseFault_inputs (s : State) (code : BitVec 4) (fpc : BitVec 5) (fins : Half) :
    (s.raiseFault code fpc fins).inputs = s.inputs := rfl
@[simp] theorem State.raiseFault_hRdata (s : State) (code : BitVec 4) (fpc : BitVec 5) (fins : Half) :
    (s.raiseFault code fpc fins).hRdata = s.hRdata := rfl
@[simp] theorem State.raiseFault_draws (s : State) (code : BitVec 4) (fpc : BitVec 5) (fins : Half) :
    (s.raiseFault code fpc fins).draws = s.draws := rfl
@[simp] theorem State.raiseFault_resets (s : State) (code : BitVec 4) (fpc : BitVec 5) (fins : Half) :
    (s.raiseFault code fpc fins).resets = s.resets := rfl

/-! ### `State.lockedWrite` -/

@[simp] theorem State.lockedWrite_config (s : State) : (s.lockedWrite).config = s.config := rfl
@[simp] theorem State.lockedWrite_x (s : State) : (s.lockedWrite).x = s.x := rfl
@[simp] theorem State.lockedWrite_xWritten (s : State) :
    (s.lockedWrite).xWritten = s.xWritten := rfl
@[simp] theorem State.lockedWrite_pc (s : State) : (s.lockedWrite).pc = s.pc := rfl
@[simp] theorem State.lockedWrite_delayCtr (s : State) :
    (s.lockedWrite).delayCtr = s.delayCtr := rfl
@[simp] theorem State.lockedWrite_osr (s : State) : (s.lockedWrite).osr = s.osr := rfl
@[simp] theorem State.lockedWrite_osrCount (s : State) :
    (s.lockedWrite).osrCount = s.osrCount := rfl
@[simp] theorem State.lockedWrite_wsOut (s : State) : (s.lockedWrite).wsOut = s.wsOut := rfl
@[simp] theorem State.lockedWrite_wsOe (s : State) : (s.lockedWrite).wsOe = s.wsOe := rfl
@[simp] theorem State.lockedWrite_en (s : State) : (s.lockedWrite).en = s.en := rfl
@[simp] theorem State.lockedWrite_dbg (s : State) :
    (s.lockedWrite).dbg = { s.dbg with busywr := true } := rfl
@[simp] theorem State.lockedWrite_fault (s : State) : (s.lockedWrite).fault = s.fault := rfl
@[simp] theorem State.lockedWrite_sysclk (s : State) : (s.lockedWrite).sysclk = s.sysclk := rfl
@[simp] theorem State.lockedWrite_clkInt (s : State) : (s.lockedWrite).clkInt = s.clkInt := rfl
@[simp] theorem State.lockedWrite_clkFrac (s : State) : (s.lockedWrite).clkFrac = s.clkFrac := rfl
@[simp] theorem State.lockedWrite_clkValid (s : State) :
    (s.lockedWrite).clkValid = s.clkValid := rfl
@[simp] theorem State.lockedWrite_acc (s : State) : (s.lockedWrite).acc = s.acc := rfl
@[simp] theorem State.lockedWrite_wrapBottom (s : State) :
    (s.lockedWrite).wrapBottom = s.wrapBottom := rfl
@[simp] theorem State.lockedWrite_wrapTop (s : State) : (s.lockedWrite).wrapTop = s.wrapTop := rfl
@[simp] theorem State.lockedWrite_owned (s : State) : (s.lockedWrite).owned = s.owned := rfl
@[simp] theorem State.lockedWrite_imem (s : State) : (s.lockedWrite).imem = s.imem := rfl
@[simp] theorem State.lockedWrite_fifo (s : State) : (s.lockedWrite).fifo = s.fifo := rfl
@[simp] theorem State.lockedWrite_pal (s : State) : (s.lockedWrite).pal = s.pal := rfl
@[simp] theorem State.lockedWrite_palDone (s : State) : (s.lockedWrite).palDone = s.palDone := rfl
@[simp] theorem State.lockedWrite_palBusy (s : State) : (s.lockedWrite).palBusy = s.palBusy := rfl
@[simp] theorem State.lockedWrite_palTimer (s : State) :
    (s.lockedWrite).palTimer = s.palTimer := rfl
@[simp] theorem State.lockedWrite_inputs (s : State) : (s.lockedWrite).inputs = s.inputs := rfl
@[simp] theorem State.lockedWrite_hRdata (s : State) : (s.lockedWrite).hRdata = s.hRdata := rfl
@[simp] theorem State.lockedWrite_draws (s : State) : (s.lockedWrite).draws = s.draws := rfl
@[simp] theorem State.lockedWrite_resets (s : State) : (s.lockedWrite).resets = s.resets := rfl

/-! ### `State.loadDivider` -/

@[simp] theorem State.loadDivider_config (s : State) (q : Nat) :
    (s.loadDivider q).config = s.config := rfl
@[simp] theorem State.loadDivider_x (s : State) (q : Nat) : (s.loadDivider q).x = s.x := rfl
@[simp] theorem State.loadDivider_xWritten (s : State) (q : Nat) :
    (s.loadDivider q).xWritten = s.xWritten := rfl
@[simp] theorem State.loadDivider_pc (s : State) (q : Nat) : (s.loadDivider q).pc = s.pc := rfl
@[simp] theorem State.loadDivider_delayCtr (s : State) (q : Nat) :
    (s.loadDivider q).delayCtr = s.delayCtr := rfl
@[simp] theorem State.loadDivider_osr (s : State) (q : Nat) : (s.loadDivider q).osr = s.osr := rfl
@[simp] theorem State.loadDivider_osrCount (s : State) (q : Nat) :
    (s.loadDivider q).osrCount = s.osrCount := rfl
@[simp] theorem State.loadDivider_wsOut (s : State) (q : Nat) :
    (s.loadDivider q).wsOut = s.wsOut := rfl
@[simp] theorem State.loadDivider_wsOe (s : State) (q : Nat) :
    (s.loadDivider q).wsOe = s.wsOe := rfl
@[simp] theorem State.loadDivider_en (s : State) (q : Nat) : (s.loadDivider q).en = s.en := rfl
@[simp] theorem State.loadDivider_dbg (s : State) (q : Nat) : (s.loadDivider q).dbg = s.dbg := rfl
@[simp] theorem State.loadDivider_fault (s : State) (q : Nat) :
    (s.loadDivider q).fault = s.fault := rfl
@[simp] theorem State.loadDivider_sysclk (s : State) (q : Nat) :
    (s.loadDivider q).sysclk = s.sysclk := rfl
@[simp] theorem State.loadDivider_clkInt (s : State) (q : Nat) :
    (s.loadDivider q).clkInt = BitVec.ofNat 16 (q / 256) := rfl
@[simp] theorem State.loadDivider_clkFrac (s : State) (q : Nat) :
    (s.loadDivider q).clkFrac = BitVec.ofNat 8 q := rfl
@[simp] theorem State.loadDivider_clkValid (s : State) (q : Nat) :
    (s.loadDivider q).clkValid = dividerUsable q := rfl
@[simp] theorem State.loadDivider_acc (s : State) (q : Nat) : (s.loadDivider q).acc = s.acc := rfl
@[simp] theorem State.loadDivider_wrapBottom (s : State) (q : Nat) :
    (s.loadDivider q).wrapBottom = s.wrapBottom := rfl
@[simp] theorem State.loadDivider_wrapTop (s : State) (q : Nat) :
    (s.loadDivider q).wrapTop = s.wrapTop := rfl
@[simp] theorem State.loadDivider_owned (s : State) (q : Nat) :
    (s.loadDivider q).owned = s.owned := rfl
@[simp] theorem State.loadDivider_imem (s : State) (q : Nat) :
    (s.loadDivider q).imem = s.imem := rfl
@[simp] theorem State.loadDivider_fifo (s : State) (q : Nat) :
    (s.loadDivider q).fifo = s.fifo := rfl
@[simp] theorem State.loadDivider_pal (s : State) (q : Nat) : (s.loadDivider q).pal = s.pal := rfl
@[simp] theorem State.loadDivider_palDone (s : State) (q : Nat) :
    (s.loadDivider q).palDone = s.palDone := rfl
@[simp] theorem State.loadDivider_palBusy (s : State) (q : Nat) :
    (s.loadDivider q).palBusy = s.palBusy := rfl
@[simp] theorem State.loadDivider_palTimer (s : State) (q : Nat) :
    (s.loadDivider q).palTimer = s.palTimer := rfl
@[simp] theorem State.loadDivider_inputs (s : State) (q : Nat) :
    (s.loadDivider q).inputs = s.inputs := rfl
@[simp] theorem State.loadDivider_hRdata (s : State) (q : Nat) :
    (s.loadDivider q).hRdata = s.hRdata := rfl
@[simp] theorem State.loadDivider_draws (s : State) (q : Nat) :
    (s.loadDivider q).draws = s.draws := rfl
@[simp] theorem State.loadDivider_resets (s : State) (q : Nat) :
    (s.loadDivider q).resets = s.resets := rfl

/-! ### `State.startPalgen` -/

@[simp] theorem State.startPalgen_config (s : State) : (s.startPalgen).config = s.config := rfl
@[simp] theorem State.startPalgen_x (s : State) : (s.startPalgen).x = s.x := rfl
@[simp] theorem State.startPalgen_xWritten (s : State) :
    (s.startPalgen).xWritten = s.xWritten := rfl
@[simp] theorem State.startPalgen_pc (s : State) : (s.startPalgen).pc = s.pc := rfl
@[simp] theorem State.startPalgen_delayCtr (s : State) :
    (s.startPalgen).delayCtr = s.delayCtr := rfl
@[simp] theorem State.startPalgen_osr (s : State) : (s.startPalgen).osr = s.osr := rfl
@[simp] theorem State.startPalgen_osrCount (s : State) :
    (s.startPalgen).osrCount = s.osrCount := rfl
@[simp] theorem State.startPalgen_wsOut (s : State) : (s.startPalgen).wsOut = s.wsOut := rfl
@[simp] theorem State.startPalgen_wsOe (s : State) : (s.startPalgen).wsOe = s.wsOe := rfl
@[simp] theorem State.startPalgen_en (s : State) : (s.startPalgen).en = s.en := rfl
@[simp] theorem State.startPalgen_dbg (s : State) : (s.startPalgen).dbg = s.dbg := rfl
@[simp] theorem State.startPalgen_fault (s : State) : (s.startPalgen).fault = s.fault := rfl
@[simp] theorem State.startPalgen_sysclk (s : State) : (s.startPalgen).sysclk = s.sysclk := rfl
@[simp] theorem State.startPalgen_clkInt (s : State) : (s.startPalgen).clkInt = s.clkInt := rfl
@[simp] theorem State.startPalgen_clkFrac (s : State) : (s.startPalgen).clkFrac = s.clkFrac := rfl
@[simp] theorem State.startPalgen_clkValid (s : State) :
    (s.startPalgen).clkValid = s.clkValid := rfl
@[simp] theorem State.startPalgen_acc (s : State) : (s.startPalgen).acc = s.acc := rfl
@[simp] theorem State.startPalgen_wrapBottom (s : State) :
    (s.startPalgen).wrapBottom = s.wrapBottom := rfl
@[simp] theorem State.startPalgen_wrapTop (s : State) : (s.startPalgen).wrapTop = s.wrapTop := rfl
@[simp] theorem State.startPalgen_owned (s : State) : (s.startPalgen).owned = s.owned := rfl
@[simp] theorem State.startPalgen_imem (s : State) : (s.startPalgen).imem = s.imem := rfl
@[simp] theorem State.startPalgen_fifo (s : State) : (s.startPalgen).fifo = s.fifo := rfl
@[simp] theorem State.startPalgen_pal (s : State) : (s.startPalgen).pal = s.pal := rfl
@[simp] theorem State.startPalgen_palDone (s : State) : (s.startPalgen).palDone = false := rfl
@[simp] theorem State.startPalgen_palBusy (s : State) : (s.startPalgen).palBusy = true := rfl
@[simp] theorem State.startPalgen_palTimer (s : State) :
    (s.startPalgen).palTimer = s.config.palLatency := rfl
@[simp] theorem State.startPalgen_inputs (s : State) : (s.startPalgen).inputs = s.inputs := rfl
@[simp] theorem State.startPalgen_hRdata (s : State) : (s.startPalgen).hRdata = s.hRdata := rfl
@[simp] theorem State.startPalgen_draws (s : State) : (s.startPalgen).draws = s.draws := rfl
@[simp] theorem State.startPalgen_resets (s : State) : (s.startPalgen).resets = s.resets := rfl

/-! ### `State.colorStep` -/

@[simp] theorem State.colorStep_config (s : State) : (s.colorStep).config = s.config := rfl
@[simp] theorem State.colorStep_x (s : State) : (s.colorStep).x = s.x := rfl
@[simp] theorem State.colorStep_xWritten (s : State) : (s.colorStep).xWritten = s.xWritten := rfl
@[simp] theorem State.colorStep_pc (s : State) : (s.colorStep).pc = s.pc := rfl
@[simp] theorem State.colorStep_delayCtr (s : State) : (s.colorStep).delayCtr = s.delayCtr := rfl
@[simp] theorem State.colorStep_osr (s : State) : (s.colorStep).osr = s.osr := rfl
@[simp] theorem State.colorStep_osrCount (s : State) : (s.colorStep).osrCount = s.osrCount := rfl
@[simp] theorem State.colorStep_wsOut (s : State) : (s.colorStep).wsOut = s.wsOut := rfl
@[simp] theorem State.colorStep_wsOe (s : State) : (s.colorStep).wsOe = s.wsOe := rfl
@[simp] theorem State.colorStep_en (s : State) : (s.colorStep).en = s.en := rfl
@[simp] theorem State.colorStep_dbg (s : State) : (s.colorStep).dbg = s.dbg := rfl
@[simp] theorem State.colorStep_fault (s : State) : (s.colorStep).fault = s.fault := rfl
@[simp] theorem State.colorStep_sysclk (s : State) : (s.colorStep).sysclk = s.sysclk := rfl
@[simp] theorem State.colorStep_clkInt (s : State) : (s.colorStep).clkInt = s.clkInt := rfl
@[simp] theorem State.colorStep_clkFrac (s : State) : (s.colorStep).clkFrac = s.clkFrac := rfl
@[simp] theorem State.colorStep_clkValid (s : State) : (s.colorStep).clkValid = s.clkValid := rfl
@[simp] theorem State.colorStep_acc (s : State) : (s.colorStep).acc = s.acc := rfl
@[simp] theorem State.colorStep_wrapBottom (s : State) :
    (s.colorStep).wrapBottom = s.wrapBottom := rfl
@[simp] theorem State.colorStep_wrapTop (s : State) : (s.colorStep).wrapTop = s.wrapTop := rfl
@[simp] theorem State.colorStep_owned (s : State) : (s.colorStep).owned = s.owned := rfl
@[simp] theorem State.colorStep_imem (s : State) : (s.colorStep).imem = s.imem := rfl
@[simp] theorem State.colorStep_fifo (s : State) : (s.colorStep).fifo = s.fifo := rfl
@[simp] theorem State.colorStep_pal (s : State) :
    (s.colorStep).pal = if 1 < s.palTimer then s.pal else paletteOf s.config := rfl
@[simp] theorem State.colorStep_palDone (s : State) :
    (s.colorStep).palDone = if 1 < s.palTimer then s.palDone else true := rfl
@[simp] theorem State.colorStep_palBusy (s : State) :
    (s.colorStep).palBusy = if 1 < s.palTimer then s.palBusy else false := rfl
@[simp] theorem State.colorStep_palTimer (s : State) :
    (s.colorStep).palTimer = if 1 < s.palTimer then s.palTimer - 1 else 0 := rfl
@[simp] theorem State.colorStep_inputs (s : State) : (s.colorStep).inputs = s.inputs := rfl
@[simp] theorem State.colorStep_hRdata (s : State) : (s.colorStep).hRdata = s.hRdata := rfl
@[simp] theorem State.colorStep_draws (s : State) : (s.colorStep).draws = s.draws := rfl
@[simp] theorem State.colorStep_resets (s : State) : (s.colorStep).resets = s.resets := rfl

/-! ### `State.openCycle` -/

@[simp] theorem State.openCycle_config (s : State) : (s.openCycle).config = s.config := rfl
@[simp] theorem State.openCycle_x (s : State) : (s.openCycle).x = s.x := rfl
@[simp] theorem State.openCycle_xWritten (s : State) : (s.openCycle).xWritten = s.xWritten := rfl
@[simp] theorem State.openCycle_pc (s : State) : (s.openCycle).pc = s.pc := rfl
@[simp] theorem State.openCycle_delayCtr (s : State) : (s.openCycle).delayCtr = s.delayCtr := rfl
@[simp] theorem State.openCycle_osr (s : State) : (s.openCycle).osr = s.osr := rfl
@[simp] theorem State.openCycle_osrCount (s : State) : (s.openCycle).osrCount = s.osrCount := rfl
@[simp] theorem State.openCycle_wsOut (s : State) : (s.openCycle).wsOut = s.wsOut := rfl
@[simp] theorem State.openCycle_wsOe (s : State) : (s.openCycle).wsOe = s.wsOe := rfl
@[simp] theorem State.openCycle_en (s : State) : (s.openCycle).en = s.en := rfl
@[simp] theorem State.openCycle_dbg (s : State) : (s.openCycle).dbg = s.dbg := rfl
@[simp] theorem State.openCycle_fault (s : State) : (s.openCycle).fault = s.fault := rfl
@[simp] theorem State.openCycle_sysclk (s : State) : (s.openCycle).sysclk = s.sysclk := rfl
@[simp] theorem State.openCycle_clkInt (s : State) : (s.openCycle).clkInt = s.clkInt := rfl
@[simp] theorem State.openCycle_clkFrac (s : State) : (s.openCycle).clkFrac = s.clkFrac := rfl
@[simp] theorem State.openCycle_clkValid (s : State) : (s.openCycle).clkValid = s.clkValid := rfl
@[simp] theorem State.openCycle_acc (s : State) : (s.openCycle).acc = s.acc := rfl
@[simp] theorem State.openCycle_wrapBottom (s : State) :
    (s.openCycle).wrapBottom = s.wrapBottom := rfl
@[simp] theorem State.openCycle_wrapTop (s : State) : (s.openCycle).wrapTop = s.wrapTop := rfl
@[simp] theorem State.openCycle_owned (s : State) : (s.openCycle).owned = s.owned := rfl
@[simp] theorem State.openCycle_imem (s : State) : (s.openCycle).imem = s.imem := rfl
@[simp] theorem State.openCycle_fifo (s : State) : (s.openCycle).fifo = s.fifo := rfl
@[simp] theorem State.openCycle_pal (s : State) : (s.openCycle).pal = s.pal := rfl
@[simp] theorem State.openCycle_palDone (s : State) : (s.openCycle).palDone = s.palDone := rfl
@[simp] theorem State.openCycle_palBusy (s : State) : (s.openCycle).palBusy = s.palBusy := rfl
@[simp] theorem State.openCycle_palTimer (s : State) : (s.openCycle).palTimer = s.palTimer := rfl
@[simp] theorem State.openCycle_inputs (s : State) : (s.openCycle).inputs = s.inputs.tail := rfl
@[simp] theorem State.openCycle_hRdata (s : State) : (s.openCycle).hRdata = none := rfl
@[simp] theorem State.openCycle_draws (s : State) : (s.openCycle).draws = s.draws := rfl
@[simp] theorem State.openCycle_resets (s : State) : (s.openCycle).resets = s.resets := rfl

/-! ### `State.noteStall`: what it leaves unchanged -/

@[simp] theorem State.noteStall_config (s : State) : (s.noteStall).config = s.config := by
  unfold State.noteStall; split <;> rfl
@[simp] theorem State.noteStall_x (s : State) : (s.noteStall).x = s.x := by
  unfold State.noteStall; split <;> rfl
@[simp] theorem State.noteStall_xWritten (s : State) : (s.noteStall).xWritten = s.xWritten := by
  unfold State.noteStall; split <;> rfl
@[simp] theorem State.noteStall_pc (s : State) : (s.noteStall).pc = s.pc := by
  unfold State.noteStall; split <;> rfl
@[simp] theorem State.noteStall_delayCtr (s : State) : (s.noteStall).delayCtr = s.delayCtr := by
  unfold State.noteStall; split <;> rfl
@[simp] theorem State.noteStall_osr (s : State) : (s.noteStall).osr = s.osr := by
  unfold State.noteStall; split <;> rfl
@[simp] theorem State.noteStall_osrCount (s : State) : (s.noteStall).osrCount = s.osrCount := by
  unfold State.noteStall; split <;> rfl
@[simp] theorem State.noteStall_wsOut (s : State) : (s.noteStall).wsOut = s.wsOut := by
  unfold State.noteStall; split <;> rfl
@[simp] theorem State.noteStall_wsOe (s : State) : (s.noteStall).wsOe = s.wsOe := by
  unfold State.noteStall; split <;> rfl
@[simp] theorem State.noteStall_en (s : State) : (s.noteStall).en = s.en := by
  unfold State.noteStall; split <;> rfl
@[simp] theorem State.noteStall_fault (s : State) : (s.noteStall).fault = s.fault := by
  unfold State.noteStall; split <;> rfl
@[simp] theorem State.noteStall_sysclk (s : State) : (s.noteStall).sysclk = s.sysclk := by
  unfold State.noteStall; split <;> rfl
@[simp] theorem State.noteStall_clkInt (s : State) : (s.noteStall).clkInt = s.clkInt := by
  unfold State.noteStall; split <;> rfl
@[simp] theorem State.noteStall_clkFrac (s : State) : (s.noteStall).clkFrac = s.clkFrac := by
  unfold State.noteStall; split <;> rfl
@[simp] theorem State.noteStall_clkValid (s : State) : (s.noteStall).clkValid = s.clkValid := by
  unfold State.noteStall; split <;> rfl
@[simp] theorem State.noteStall_acc (s : State) : (s.noteStall).acc = s.acc := by
  unfold State.noteStall; split <;> rfl
@[simp] theorem State.noteStall_wrapBottom (s : State) : (s.noteStall).wrapBottom = s.wrapBottom := by
  unfold State.noteStall; split <;> rfl
@[simp] theorem State.noteStall_wrapTop (s : State) : (s.noteStall).wrapTop = s.wrapTop := by
  unfold State.noteStall; split <;> rfl
@[simp] theorem State.noteStall_owned (s : State) : (s.noteStall).owned = s.owned := by
  unfold State.noteStall; split <;> rfl
@[simp] theorem State.noteStall_imem (s : State) : (s.noteStall).imem = s.imem := by
  unfold State.noteStall; split <;> rfl
@[simp] theorem State.noteStall_fifo (s : State) : (s.noteStall).fifo = s.fifo := by
  unfold State.noteStall; split <;> rfl
@[simp] theorem State.noteStall_pal (s : State) : (s.noteStall).pal = s.pal := by
  unfold State.noteStall; split <;> rfl
@[simp] theorem State.noteStall_palDone (s : State) : (s.noteStall).palDone = s.palDone := by
  unfold State.noteStall; split <;> rfl
@[simp] theorem State.noteStall_palBusy (s : State) : (s.noteStall).palBusy = s.palBusy := by
  unfold State.noteStall; split <;> rfl
@[simp] theorem State.noteStall_palTimer (s : State) : (s.noteStall).palTimer = s.palTimer := by
  unfold State.noteStall; split <;> rfl
@[simp] theorem State.noteStall_inputs (s : State) : (s.noteStall).inputs = s.inputs := by
  unfold State.noteStall; split <;> rfl
@[simp] theorem State.noteStall_hRdata (s : State) : (s.noteStall).hRdata = s.hRdata := by
  unfold State.noteStall; split <;> rfl
@[simp] theorem State.noteStall_draws (s : State) : (s.noteStall).draws = s.draws := by
  unfold State.noteStall; split <;> rfl
@[simp] theorem State.noteStall_resets (s : State) : (s.noteStall).resets = s.resets := by
  unfold State.noteStall; split <;> rfl

/-! ### `State.fifoPush`: what it leaves unchanged -/

@[simp] theorem State.fifoPush_config (s : State) (w : Word) : (s.fifoPush w).config = s.config := by
  unfold State.fifoPush; split <;> rfl
@[simp] theorem State.fifoPush_x (s : State) (w : Word) : (s.fifoPush w).x = s.x := by
  unfold State.fifoPush; split <;> rfl
@[simp] theorem State.fifoPush_xWritten (s : State) (w : Word) : (s.fifoPush w).xWritten = s.xWritten := by
  unfold State.fifoPush; split <;> rfl
@[simp] theorem State.fifoPush_pc (s : State) (w : Word) : (s.fifoPush w).pc = s.pc := by
  unfold State.fifoPush; split <;> rfl
@[simp] theorem State.fifoPush_delayCtr (s : State) (w : Word) : (s.fifoPush w).delayCtr = s.delayCtr := by
  unfold State.fifoPush; split <;> rfl
@[simp] theorem State.fifoPush_osr (s : State) (w : Word) : (s.fifoPush w).osr = s.osr := by
  unfold State.fifoPush; split <;> rfl
@[simp] theorem State.fifoPush_osrCount (s : State) (w : Word) : (s.fifoPush w).osrCount = s.osrCount := by
  unfold State.fifoPush; split <;> rfl
@[simp] theorem State.fifoPush_wsOut (s : State) (w : Word) : (s.fifoPush w).wsOut = s.wsOut := by
  unfold State.fifoPush; split <;> rfl
@[simp] theorem State.fifoPush_wsOe (s : State) (w : Word) : (s.fifoPush w).wsOe = s.wsOe := by
  unfold State.fifoPush; split <;> rfl
@[simp] theorem State.fifoPush_en (s : State) (w : Word) : (s.fifoPush w).en = s.en := by
  unfold State.fifoPush; split <;> rfl
@[simp] theorem State.fifoPush_fault (s : State) (w : Word) : (s.fifoPush w).fault = s.fault := by
  unfold State.fifoPush; split <;> rfl
@[simp] theorem State.fifoPush_sysclk (s : State) (w : Word) : (s.fifoPush w).sysclk = s.sysclk := by
  unfold State.fifoPush; split <;> rfl
@[simp] theorem State.fifoPush_clkInt (s : State) (w : Word) : (s.fifoPush w).clkInt = s.clkInt := by
  unfold State.fifoPush; split <;> rfl
@[simp] theorem State.fifoPush_clkFrac (s : State) (w : Word) : (s.fifoPush w).clkFrac = s.clkFrac := by
  unfold State.fifoPush; split <;> rfl
@[simp] theorem State.fifoPush_clkValid (s : State) (w : Word) : (s.fifoPush w).clkValid = s.clkValid := by
  unfold State.fifoPush; split <;> rfl
@[simp] theorem State.fifoPush_acc (s : State) (w : Word) : (s.fifoPush w).acc = s.acc := by
  unfold State.fifoPush; split <;> rfl
@[simp] theorem State.fifoPush_wrapBottom (s : State) (w : Word) : (s.fifoPush w).wrapBottom = s.wrapBottom := by
  unfold State.fifoPush; split <;> rfl
@[simp] theorem State.fifoPush_wrapTop (s : State) (w : Word) : (s.fifoPush w).wrapTop = s.wrapTop := by
  unfold State.fifoPush; split <;> rfl
@[simp] theorem State.fifoPush_owned (s : State) (w : Word) : (s.fifoPush w).owned = s.owned := by
  unfold State.fifoPush; split <;> rfl
@[simp] theorem State.fifoPush_imem (s : State) (w : Word) : (s.fifoPush w).imem = s.imem := by
  unfold State.fifoPush; split <;> rfl
@[simp] theorem State.fifoPush_pal (s : State) (w : Word) : (s.fifoPush w).pal = s.pal := by
  unfold State.fifoPush; split <;> rfl
@[simp] theorem State.fifoPush_palDone (s : State) (w : Word) : (s.fifoPush w).palDone = s.palDone := by
  unfold State.fifoPush; split <;> rfl
@[simp] theorem State.fifoPush_palBusy (s : State) (w : Word) : (s.fifoPush w).palBusy = s.palBusy := by
  unfold State.fifoPush; split <;> rfl
@[simp] theorem State.fifoPush_palTimer (s : State) (w : Word) : (s.fifoPush w).palTimer = s.palTimer := by
  unfold State.fifoPush; split <;> rfl
@[simp] theorem State.fifoPush_inputs (s : State) (w : Word) : (s.fifoPush w).inputs = s.inputs := by
  unfold State.fifoPush; split <;> rfl
@[simp] theorem State.fifoPush_hRdata (s : State) (w : Word) : (s.fifoPush w).hRdata = s.hRdata := by
  unfold State.fifoPush; split <;> rfl
@[simp] theorem State.fifoPush_draws (s : State) (w : Word) : (s.fifoPush w).draws = s.draws := by
  unfold State.fifoPush; split <;> rfl
@[simp] theorem State.fifoPush_resets (s : State) (w : Word) : (s.fifoPush w).resets = s.resets := by
  unfold State.fifoPush; split <;> rfl

/-! ### `State.refill`: what it leaves unchanged -/

@[simp] theorem State.refill_config (s : State) (shifted : Bool) : (s.refill shifted).config = s.config := by
  unfold State.refill; split <;> (try split) <;> rfl
@[simp] theorem State.refill_x (s : State) (shifted : Bool) : (s.refill shifted).x = s.x := by
  unfold State.refill; split <;> (try split) <;> rfl
@[simp] theorem State.refill_xWritten (s : State) (shifted : Bool) : (s.refill shifted).xWritten = s.xWritten := by
  unfold State.refill; split <;> (try split) <;> rfl
@[simp] theorem State.refill_pc (s : State) (shifted : Bool) : (s.refill shifted).pc = s.pc := by
  unfold State.refill; split <;> (try split) <;> rfl
@[simp] theorem State.refill_delayCtr (s : State) (shifted : Bool) : (s.refill shifted).delayCtr = s.delayCtr := by
  unfold State.refill; split <;> (try split) <;> rfl
@[simp] theorem State.refill_wsOut (s : State) (shifted : Bool) : (s.refill shifted).wsOut = s.wsOut := by
  unfold State.refill; split <;> (try split) <;> rfl
@[simp] theorem State.refill_wsOe (s : State) (shifted : Bool) : (s.refill shifted).wsOe = s.wsOe := by
  unfold State.refill; split <;> (try split) <;> rfl
@[simp] theorem State.refill_en (s : State) (shifted : Bool) : (s.refill shifted).en = s.en := by
  unfold State.refill; split <;> (try split) <;> rfl
@[simp] theorem State.refill_dbg (s : State) (shifted : Bool) : (s.refill shifted).dbg = s.dbg := by
  unfold State.refill; split <;> (try split) <;> rfl
@[simp] theorem State.refill_fault (s : State) (shifted : Bool) : (s.refill shifted).fault = s.fault := by
  unfold State.refill; split <;> (try split) <;> rfl
@[simp] theorem State.refill_sysclk (s : State) (shifted : Bool) : (s.refill shifted).sysclk = s.sysclk := by
  unfold State.refill; split <;> (try split) <;> rfl
@[simp] theorem State.refill_clkInt (s : State) (shifted : Bool) : (s.refill shifted).clkInt = s.clkInt := by
  unfold State.refill; split <;> (try split) <;> rfl
@[simp] theorem State.refill_clkFrac (s : State) (shifted : Bool) : (s.refill shifted).clkFrac = s.clkFrac := by
  unfold State.refill; split <;> (try split) <;> rfl
@[simp] theorem State.refill_clkValid (s : State) (shifted : Bool) : (s.refill shifted).clkValid = s.clkValid := by
  unfold State.refill; split <;> (try split) <;> rfl
@[simp] theorem State.refill_acc (s : State) (shifted : Bool) : (s.refill shifted).acc = s.acc := by
  unfold State.refill; split <;> (try split) <;> rfl
@[simp] theorem State.refill_wrapBottom (s : State) (shifted : Bool) : (s.refill shifted).wrapBottom = s.wrapBottom := by
  unfold State.refill; split <;> (try split) <;> rfl
@[simp] theorem State.refill_wrapTop (s : State) (shifted : Bool) : (s.refill shifted).wrapTop = s.wrapTop := by
  unfold State.refill; split <;> (try split) <;> rfl
@[simp] theorem State.refill_owned (s : State) (shifted : Bool) : (s.refill shifted).owned = s.owned := by
  unfold State.refill; split <;> (try split) <;> rfl
@[simp] theorem State.refill_imem (s : State) (shifted : Bool) : (s.refill shifted).imem = s.imem := by
  unfold State.refill; split <;> (try split) <;> rfl
@[simp] theorem State.refill_pal (s : State) (shifted : Bool) : (s.refill shifted).pal = s.pal := by
  unfold State.refill; split <;> (try split) <;> rfl
@[simp] theorem State.refill_palDone (s : State) (shifted : Bool) : (s.refill shifted).palDone = s.palDone := by
  unfold State.refill; split <;> (try split) <;> rfl
@[simp] theorem State.refill_palBusy (s : State) (shifted : Bool) : (s.refill shifted).palBusy = s.palBusy := by
  unfold State.refill; split <;> (try split) <;> rfl
@[simp] theorem State.refill_palTimer (s : State) (shifted : Bool) : (s.refill shifted).palTimer = s.palTimer := by
  unfold State.refill; split <;> (try split) <;> rfl
@[simp] theorem State.refill_inputs (s : State) (shifted : Bool) : (s.refill shifted).inputs = s.inputs := by
  unfold State.refill; split <;> (try split) <;> rfl
@[simp] theorem State.refill_hRdata (s : State) (shifted : Bool) : (s.refill shifted).hRdata = s.hRdata := by
  unfold State.refill; split <;> (try split) <;> rfl
@[simp] theorem State.refill_draws (s : State) (shifted : Bool) : (s.refill shifted).draws = s.draws := by
  unfold State.refill; split <;> (try split) <;> rfl
@[simp] theorem State.refill_resets (s : State) (shifted : Bool) : (s.refill shifted).resets = s.resets := by
  unfold State.refill; split <;> (try split) <;> rfl

end Sys2Proof.Machine
end

