-- ==== Sys2Proof/Laws/Exec.lean ====
section
/-! SUPPORT. What `exec` answers, one equation per instruction, and that it always answers a next state. -/

namespace Sys2Proof.Machine

@[simp] theorem exec_jmp (side : Bool) (delay : BitVec 4) (addr : BitVec 5) (s : State) :
    exec (.jmp side delay addr) s =
      .next (s.instructionTick side true addr delay) := rfl

@[simp] theorem exec_jmpNotX (side : Bool) (delay : BitVec 4) (addr : BitVec 5) (s : State) :
    exec (.jmpNotX side delay addr) s =
      .next (s.instructionTick side (!s.readX) addr delay) := rfl

@[simp] theorem exec_outX (side : Bool) (delay : BitVec 4) (s : State) :
    exec (.outX side delay) s =
      .next (if s.osrEmpty then s.outStall side else s.outShift side delay) := rfl

@[simp] theorem exec_nop (side : Bool) (delay : BitVec 4) (s : State) :
    exec (.nop side delay) s =
      .next (s.instructionTick side false 0 delay) := rfl

@[simp] theorem exec_setPindirs (d : Bool) (side : Bool) (delay : BitVec 4) (s : State) :
    exec (.setPindirs d side delay) s =
      .next ({ s with wsOe := d }.instructionTick side false 0 delay) := rfl

@[simp] theorem exec_ctrlW (v : Word) (s : State) :
    exec (.ctrlW v) s =
      .next (s.writeCtrl v) := rfl

@[simp] theorem exec_ctrlR (s : State) :
    exec (.ctrlR) s =
      .next (s.answer s.ctrlImage) := rfl

@[simp] theorem exec_statR (s : State) :
    exec (.statR) s =
      .next (s.answer s.statImage) := rfl

@[simp] theorem exec_debugR (s : State) :
    exec (.debugR) s =
      .next (s.answer s.debugImage) := rfl

@[simp] theorem exec_debugW (v : Word) (s : State) :
    exec (.debugW v) s =
      .next { s with dbg := s.dbg.clear v } := rfl

@[simp] theorem exec_faultR (s : State) :
    exec (.faultR) s =
      .next (s.answer s.faultImage) := rfl

@[simp] theorem exec_sysclkW (v : Word) (s : State) :
    exec (.sysclkW v) s =
      .next (if s.en then s.lockedWrite else { s with sysclk := v, clkValid := false }) := rfl

@[simp] theorem exec_sysclkR (s : State) :
    exec (.sysclkR) s =
      .next (s.answer s.sysclk) := rfl

@[simp] theorem exec_clkdivR (s : State) :
    exec (.clkdivR) s =
      .next (s.answer s.clkdivImage) := rfl

@[simp] theorem exec_clkcfgW (v : Word) (s : State) :
    exec (.clkcfgW v) s =
      .next (if s.en then s.lockedWrite else s.configureClock) := rfl

@[simp] theorem exec_wrapW (v : Word) (s : State) :
    exec (.wrapW v) s =
      .next (if s.en then s.lockedWrite else { s with wrapBottom := bottomField v, wrapTop := topField v }) := rfl

@[simp] theorem exec_wrapR (s : State) :
    exec (.wrapR) s =
      .next (s.answer s.wrapImage) := rfl

@[simp] theorem exec_txfW (v : Word) (s : State) :
    exec (.txfW v) s =
      .next (s.fifoPush v) := rfl

@[simp] theorem exec_pixpushW (v : Word) (s : State) :
    exec (.pixpushW v) s =
      .next (s.fifoPush (pack (pixelOfRegister v))) := rfl

@[simp] theorem exec_claimR (s : State) :
    exec (.claimR) s =
      .next ({ s with owned := true }.answer (bitImage (!s.owned))) := rfl

@[simp] theorem exec_palgenW (v : Word) (s : State) :
    exec (.palgenW v) s =
      .next (if s.palBusy then s.lockedWrite else s.startPalgen) := rfl

@[simp] theorem exec_addrR (s : State) :
    exec (.addrR) s =
      .next (s.answer s.addrImage) := rfl

@[simp] theorem exec_imemW (i : BitVec 5) (v : Word) (s : State) :
    exec (.imemW i v) s =
      .next (if s.en then s.lockedWrite else { s with imem := s.imem.write i.toNat (imemField v) }) := rfl

@[simp] theorem exec_palR (k : BitVec 7) (s : State) :
    exec (.palR k) s =
      .next (if paletteIndexOk s.config k then { s with draws := s.palDraws k.toNat }.answer (entryImage (s.palEntry k.toNat)) else s.ignoredAccess false) := rfl

/-- Every instruction answers a next state in every state: no meaning stops. -/
theorem exec_answers_next (i : Instr) (s : State) : ∃ t, exec i s = .next t := by
  cases i <;> exact ⟨_, rfl⟩

end Sys2Proof.Machine
end

