-- ==== Sys2Proof/Laws/Ops.lean ====
section
/-! SUPPORT. One lemma per shared operation that says everything it can do: the FIFO push, the refill, fault entry,
CLKCFG, COLOR's step, ENC's tick, the host's part of a cycle, and the cycle. -/

namespace Sys2Proof.Machine

/-! ### The FIFO and the refill -/

theorem State.fifoPush_of_room {s : State} {w : Word} (h : s.fifo.length < s.config.fifoDepth) :
    s.fifoPush w = { s with fifo := s.fifo ++ [w] } :=
  if_pos h

theorem State.fifoPush_of_full {s : State} {w : Word} (h : s.config.fifoDepth ≤ s.fifo.length) :
    s.fifoPush w = { s with dbg := { s.dbg with txover := true } } :=
  if_neg (Nat.not_lt.mpr h)

/-- A refill that finds the count at the threshold and a word waiting takes it. -/
theorem State.refill_takes {s : State} {shifted : Bool} {w : Word} {rest : List Word}
    (hf : s.fifo = w :: rest) (hc : s.config.pullThresh ≤ (s.shiftedCount shifted).toNat) :
    s.refill shifted = { s with osr := w, osrCount := 0, fifo := rest } := by
  simp only [State.refill, hf, if_pos hc]

/-- Any other refill leaves the OSR as this tick's shift left it. -/
theorem State.refill_keeps {s : State} {shifted : Bool}
    (h : ¬ (s.config.pullThresh ≤ (s.shiftedCount shifted).toNat ∧ s.fifo ≠ [])) :
    s.refill shifted
      = { s with osr := s.shiftedOsr shifted, osrCount := s.shiftedCount shifted } := by
  unfold State.refill
  split
  · next w rest hf =>
    rw [if_neg]
    intro hc
    exact h ⟨hc, by simp [hf]⟩
  · rfl

/-- The two things a refill can do. -/
theorem State.refill_cases (s : State) (shifted : Bool) :
    (∃ w rest, s.fifo = w :: rest ∧ s.config.pullThresh ≤ (s.shiftedCount shifted).toNat
        ∧ s.refill shifted = { s with osr := w, osrCount := 0, fifo := rest })
    ∨ (¬ (s.config.pullThresh ≤ (s.shiftedCount shifted).toNat ∧ s.fifo ≠ [])
        ∧ s.refill shifted
          = { s with osr := s.shiftedOsr shifted, osrCount := s.shiftedCount shifted }) := by
  by_cases h : s.config.pullThresh ≤ (s.shiftedCount shifted).toNat ∧ s.fifo ≠ []
  · obtain ⟨w, rest, hf⟩ := List.exists_cons_of_ne_nil h.2
    exact .inl ⟨w, rest, hf, h.1, State.refill_takes hf h.1⟩
  · exact .inr ⟨h, State.refill_keeps h⟩

/-! ### Fault entry and CLKCFG -/

theorem State.raiseFault_first {s : State} (h : s.fault.code = 0) (code : BitVec 4) (fpc : BitVec 5)
    (fins : Half) :
    s.raiseFault code fpc fins = { s with fault := ⟨code, fpc, fins⟩, en := false, wsOut := false } := by
  simp [State.raiseFault, h]

theorem State.raiseFault_kept {s : State} (h : s.fault.code ≠ 0) (code : BitVec 4) (fpc : BitVec 5)
    (fins : Half) :
    s.raiseFault code fpc fins = { s with en := false, wsOut := false } := by
  simp only [State.raiseFault, if_neg h]

/-- CLKCFG loads the divider, and enters fault 2 if it is unusable. -/
theorem State.configureClock_cases (s : State) :
    (dividerUsable (dividerOf s.config s.sysclk.toNat) = true
        ∧ s.configureClock = s.loadDivider (dividerOf s.config s.sysclk.toNat))
    ∨ (dividerUsable (dividerOf s.config s.sysclk.toNat) = false
        ∧ s.configureClock = (s.loadDivider (dividerOf s.config s.sysclk.toNat)).raiseClockConfig) := by
  unfold State.configureClock
  by_cases h : dividerUsable (dividerOf s.config s.sysclk.toNat) = true
  · exact .inl ⟨h, by simp [h]⟩
  · simp only [Bool.not_eq_true] at h
    exact .inr ⟨h, by simp [h]⟩

/-! ### The cycle -/

/-- ENC's tick: a delay tick, the instruction the fetched word stands for, or fault 1. -/
theorem encTick_cases (s : State) :
    (s.delayCtr ≠ 0 ∧ encTick s = .next s.delayTick)
    ∨ (s.delayCtr = 0 ∧ ∃ i, decodeMicro s.fetchWord = .ok i ∧ encTick s = exec i s)
    ∨ (s.delayCtr = 0 ∧ ∃ r, decodeMicro s.fetchWord = .error r
        ∧ encTick s = .next s.raiseIllegal) := by
  unfold encTick
  by_cases h : s.delayCtr = 0
  · cases hd : decodeMicro s.fetchWord with
    | ok i => exact .inr (.inl ⟨h, i, rfl, by simp [h]⟩)
    | error r => exact .inr (.inr ⟨h, r, rfl, by simp [h]⟩)
  · exact .inl ⟨h, if_pos h⟩

/-- The host's part of a cycle: nothing, the operation the access stands for, or R154. -/
theorem hostCycle_cases (access : Option HostAccess) (s : State) :
    (access = none ∧ hostCycle access s = .next s)
    ∨ (∃ a i, access = some a ∧ decodeAccess s.config a = .ok i ∧ hostCycle access s = exec i s)
    ∨ (∃ a r, access = some a ∧ decodeAccess s.config a = .error r
        ∧ hostCycle access s = .next (s.ignoredAccess a.write)) := by
  cases access with
  | none => exact .inl ⟨rfl, rfl⟩
  | some a =>
    cases hd : decodeAccess s.config a with
    | ok i => exact .inr (.inl ⟨a, i, rfl, hd, by simp [hostCycle, hd]⟩)
    | error r => exact .inr (.inr ⟨a, r, rfl, hd, by simp [hostCycle, hd]⟩)

theorem encTick_answers_next (s : State) : ∃ t, encTick s = .next t := by
  obtain ⟨-, h⟩ | ⟨-, i, -, h⟩ | ⟨-, r, -, h⟩ := encTick_cases s
  · exact ⟨_, h⟩
  · exact h ▸ exec_answers_next i s
  · exact ⟨_, h⟩

theorem hostCycle_answers_next (access : Option HostAccess) (s : State) :
    ∃ t, hostCycle access s = .next t := by
  obtain ⟨-, h⟩ | ⟨a, i, -, -, h⟩ | ⟨a, r, -, -, h⟩ := hostCycle_cases access s
  · exact ⟨_, h⟩
  · exact h ▸ exec_answers_next i s
  · exact ⟨_, h⟩

/-- What a step can do: a reset cycle, or a cycle of the host, ENC and the commit. -/
theorem step_cases {s t : State} (h : step s = .next t) :
    (s.nextPort.rstN = false ∧ t = s.openCycle.applyReset)
    ∨ (s.nextPort.rstN = true ∧ ∃ hs e, hostCycle s.nextPort.access s.openCycle = .next hs
        ∧ encCycle s.openCycle hs = .next e ∧ t = closeCycle s.openCycle hs e) := by
  unfold step cycle at h
  by_cases hr : s.nextPort.rstN = true
  · refine .inr ⟨hr, ?_⟩
    simp only [hr, if_true, runCycle] at h
    obtain ⟨hs, hh⟩ := hostCycle_answers_next s.nextPort.access s.openCycle
    simp only [hh, andThen] at h
    refine ⟨hs, ?_⟩
    cases he : encCycle s.openCycle hs with
    | next e => simp only [he, Host.Outcome.next.injEq] at h; exact ⟨e, hh, rfl, h.symm⟩
    | fault f => cases f
    | refused r => simp [he] at h
  · simp only [Bool.not_eq_true] at hr
    simp only [hr, Bool.false_eq_true, if_false, Host.Outcome.next.injEq] at h
    exact .inl ⟨hr, h.symm⟩

/-- A cycle of the host, ENC and the commit is a step. -/
theorem step_of_cycle {s hs e : State} (hr : s.nextPort.rstN = true)
    (hh : hostCycle s.nextPort.access s.openCycle = .next hs)
    (he : encCycle s.openCycle hs = .next e) :
    step s = .next (closeCycle s.openCycle hs e) := by
  simp [step, cycle, hr, runCycle, hh, andThen, he]

end Sys2Proof.Machine
end

