-- ==== Sys2Proof/Laws/Frames.lean ====
section
/-! SUPPORT. What the two agents of a cycle can do, said once: `HostEffect` for a host access and `EncEffect` for a
tick of ENC. Claims about the whole machine cite these and never unfold a meaning. -/

namespace Sys2Proof.Machine

/-- The instruction is a micro-instruction of ENC, not a host operation. -/
def isMicro : Instr → Bool
  | .jmp _ _ _ => true
  | .jmpNotX _ _ _ => true
  | .outX _ _ => true
  | .nop _ _ => true
  | .setPindirs _ _ _ => true
  | _ => false

/-- The decoder of words gives micro-instructions only, and rejects in one way only. -/
theorem decodeMicro_cases (w : Half) :
    (∃ i, decodeMicro w = .ok i ∧ isMicro i = true) ∨ decodeMicro w = .error .illegalWord := by
  unfold decodeMicro
  repeat' split
  all_goals first
    | exact .inl ⟨_, rfl, rfl⟩
    | exact .inr rfl

/-- A decoding that gives no micro-instruction. -/
def GivesHost (r : Except Reject Instr) : Prop := ∀ i, r = .ok i → isMicro i = false

theorem GivesHost.ok {i : Instr} (h : isMicro i = false) : GivesHost (.ok i) := fun j hj => by
  injection hj with hj
  exact hj ▸ h

theorem GivesHost.error (r : Reject) : GivesHost (.error r) := fun _ hj => by cases hj

theorem GivesHost.ite {p : Prop} [Decidable p] {a b : Except Reject Instr} (ha : GivesHost a) (hb : GivesHost b) :
    GivesHost (if p then a else b) := by
  split <;> assumption

/-- The decoder of accesses gives host operations only. -/
theorem decodeAccess_isHost {c : Config} {a : HostAccess} {i : Instr} (h : decodeAccess c a = .ok i) :
    isMicro i = false := by
  revert i
  show GivesHost (decodeAccess c a)
  unfold decodeAccess decodeWrite decodeRead
  repeat' apply GivesHost.ite
  all_goals first
    | exact .ok rfl
    | exact .error _

/-! ### The host -/

/-- Everything a host access can do to the state it is presented to. -/
structure HostEffect (s h : State) : Prop where
  /-- The state elements a host access never writes. -/
  frame : h = { s with
    en := h.en, wsOut := h.wsOut, dbg := h.dbg, fault := h.fault, sysclk := h.sysclk, clkInt := h.clkInt,
    clkFrac := h.clkFrac, clkValid := h.clkValid, wrapBottom := h.wrapBottom, wrapTop := h.wrapTop,
    owned := h.owned, imem := h.imem, fifo := h.fifo, palDone := h.palDone, palBusy := h.palBusy,
    palTimer := h.palTimer, hRdata := h.hRdata, draws := h.draws }
  /-- At most one word goes behind the FIFO, and only if the start-of-cycle level leaves room (R47). -/
  fifo : ∃ pushed, h.fifo = s.fifo ++ pushed ∧ pushed.length ≤ 1 ∧ (pushed ≠ [] → s.fifo.length < s.config.fifoDepth)
  /-- The configuration registers are locked while EN = 1 (R157). -/
  locked : s.en = true → h.sysclk = s.sysclk ∧ h.clkInt = s.clkInt ∧ h.clkFrac = s.clkFrac
    ∧ h.clkValid = s.clkValid ∧ h.wrapBottom = s.wrapBottom ∧ h.wrapTop = s.wrapTop ∧ h.imem = s.imem
  /-- EN is set only with a usable divider and no fault (R135). -/
  enabled : h.en = true → s.en = true ∨ (s.clkValid = true ∧ h.clkValid = true ∧ s.fault.code = 0)
  /-- Fault entry with code 2, or nothing of it (R203, R204). -/
  fault : (h.fault = s.fault ∧ h.wsOut = s.wsOut)
    ∨ ((s.en = false ∨ (s.clkValid = false ∧ s.fault.code = 0)) ∧ h.en = false ∧ h.wsOut = false
        ∧ h.fault = if s.fault.code = 0 then ⟨2, s.pc, 0⟩ else s.fault)
  /-- CLK_VALID = 1 is left from before with its divider, or is the outcome of CLKCFG (R115). -/
  clock : h.clkValid = true →
    (s.clkValid = true ∧ h.sysclk = s.sysclk ∧ h.clkInt = s.clkInt ∧ h.clkFrac = s.clkFrac)
    ∨ (h.dividerQ.toNat = dividerOf s.config h.sysclk.toNat ∧ dividerUsable h.dividerQ.toNat = true)
  /-- IMEM keeps its canonical form. -/
  imem : s.config.legal = true → s.imem.wf s.config.imemSize = true → h.imem.wf s.config.imemSize = true
  /-- OWNED is never cleared (R24). -/
  owned : s.owned = true → h.owned = true
  /-- A PALGEN starts only while none is in progress (R166). -/
  palette : (h.palBusy = s.palBusy ∧ h.palDone = s.palDone ∧ h.palTimer = s.palTimer)
    ∨ (s.palBusy = false ∧ h.palBusy = true ∧ h.palDone = false ∧ h.palTimer = s.config.palLatency)

/-! The fields a host access leaves alone, one by one. -/

theorem HostEffect.config_eq {s h : State} (eff : HostEffect s h) : h.config = s.config := by
  have h := congrArg State.config eff.frame
  exact h

theorem HostEffect.x_eq {s h : State} (eff : HostEffect s h) : h.x = s.x := by
  have h := congrArg State.x eff.frame
  exact h

theorem HostEffect.xWritten_eq {s h : State} (eff : HostEffect s h) : h.xWritten = s.xWritten := by
  have h := congrArg State.xWritten eff.frame
  exact h

theorem HostEffect.pc_eq {s h : State} (eff : HostEffect s h) : h.pc = s.pc := by
  have h := congrArg State.pc eff.frame
  exact h

theorem HostEffect.delayCtr_eq {s h : State} (eff : HostEffect s h) : h.delayCtr = s.delayCtr := by
  have h := congrArg State.delayCtr eff.frame
  exact h

theorem HostEffect.osr_eq {s h : State} (eff : HostEffect s h) : h.osr = s.osr := by
  have h := congrArg State.osr eff.frame
  exact h

theorem HostEffect.osrCount_eq {s h : State} (eff : HostEffect s h) : h.osrCount = s.osrCount := by
  have h := congrArg State.osrCount eff.frame
  exact h

theorem HostEffect.wsOe_eq {s h : State} (eff : HostEffect s h) : h.wsOe = s.wsOe := by
  have h := congrArg State.wsOe eff.frame
  exact h

theorem HostEffect.acc_eq {s h : State} (eff : HostEffect s h) : h.acc = s.acc := by
  have h := congrArg State.acc eff.frame
  exact h

theorem HostEffect.pal_eq {s h : State} (eff : HostEffect s h) : h.pal = s.pal := by
  have h := congrArg State.pal eff.frame
  exact h

theorem HostEffect.inputs_eq {s h : State} (eff : HostEffect s h) : h.inputs = s.inputs := by
  have h := congrArg State.inputs eff.frame
  exact h

theorem HostEffect.resets_eq {s h : State} (eff : HostEffect s h) : h.resets = s.resets := by
  have h := congrArg State.resets eff.frame
  exact h

/-- Nothing at all. -/
theorem HostEffect.refl (s : State) : HostEffect s s where
  frame := rfl
  fifo := ⟨[], by simp, by simp, by simp⟩
  locked _ := ⟨rfl, rfl, rfl, rfl, rfl, rfl, rfl⟩
  enabled h := .inl h
  fault := .inl ⟨rfl, rfl⟩
  clock h := .inl ⟨h, rfl, rfl, rfl⟩
  imem _ h := h
  owned h := h
  palette := .inl ⟨rfl, rfl, rfl⟩

/-- A read, with its side effects: the answer, OWNED set, the count of free values. -/
theorem HostEffect.of_read (s : State) (owned : Bool) (r : Option Word) (n : Nat)
    (ho : s.owned = true → owned = true) : HostEffect s { s with owned := owned, hRdata := r, draws := n } where
  frame := rfl
  fifo := ⟨[], by simp, by simp, by simp⟩
  locked _ := ⟨rfl, rfl, rfl, rfl, rfl, rfl, rfl⟩
  enabled h := .inl h
  fault := .inl ⟨rfl, rfl⟩
  clock h := .inl ⟨h, rfl, rfl, rfl⟩
  imem _ h := h
  owned := ho
  palette := .inl ⟨rfl, rfl, rfl⟩

/-- A change of the DEBUG flags alone. -/
theorem HostEffect.of_debug (s : State) (d : DebugFlags) : HostEffect s { s with dbg := d } where
  frame := rfl
  fifo := ⟨[], by simp, by simp, by simp⟩
  locked _ := ⟨rfl, rfl, rfl, rfl, rfl, rfl, rfl⟩
  enabled h := .inl h
  fault := .inl ⟨rfl, rfl⟩
  clock h := .inl ⟨h, rfl, rfl, rfl⟩
  imem _ h := h
  owned h := h
  palette := .inl ⟨rfl, rfl, rfl⟩

theorem HostEffect.of_answer (s : State) (v : Word) : HostEffect s (s.answer v) :=
  HostEffect.of_read s s.owned (some v) s.draws id

theorem HostEffect.of_push (s : State) (w : Word) : HostEffect s (s.fifoPush w) := by
  by_cases hr : s.fifo.length < s.config.fifoDepth
  · rw [State.fifoPush_of_room hr]
    exact { HostEffect.refl s with frame := rfl, fifo := ⟨[w], rfl, by simp, fun _ => hr⟩ }
  · rw [State.fifoPush_of_full (Nat.not_lt.mp hr)]
    exact HostEffect.of_debug s _

/-- Fault entry with code 2 from a state that differs from `s` in the clock registers alone. -/
theorem HostEffect.of_ctrl (s : State) (v : Word) : HostEffect s (s.writeCtrl v) := by
  unfold State.writeCtrl
  split
  · exact { HostEffect.refl s with frame := rfl, enabled := fun h => (by cases h), fault := .inl ⟨rfl, rfl⟩ }
  · split
    · exact HostEffect.refl s
    · next _ hf =>
      simp only [not_not] at hf
      split
      · next hv =>
        simp only [Bool.not_eq_true'] at hv
        exact { HostEffect.refl s with
                frame := rfl
                enabled := fun h => by cases h
                fault := .inr ⟨.inr ⟨hv, hf⟩, rfl, rfl, rfl⟩ }
      · next hv =>
        simp only [Bool.not_eq_true', Bool.not_eq_false] at hv
        exact { HostEffect.refl s with
                frame := rfl, enabled := fun _ => .inr ⟨hv, hv, hf⟩, fault := .inl ⟨rfl, rfl⟩ }

/-- The divider CLKCFG loads, read back. -/
theorem loadDivider_dividerQ {q : Nat} (s : State) (h : dividerUsable q = true) :
    (s.loadDivider q).dividerQ.toNat = q := by
  simp only [dividerUsable, Bool.and_eq_true, decide_eq_true_eq] at h
  simp only [State.dividerQ, State.loadDivider, BitVec.toNat_append, BitVec.toNat_ofNat]
  rw [← Nat.shiftLeft_add_eq_or_of_lt (by omega), Nat.shiftLeft_eq]
  omega

theorem HostEffect.of_clkcfg (s : State) (hen : s.en = false) : HostEffect s s.configureClock := by
  obtain ⟨hu, h⟩ | ⟨hu, h⟩ := State.configureClock_cases s <;> rw [h]
  · exact { HostEffect.refl s with
            frame := rfl
            locked := fun he => absurd he (by simp [hen])
            enabled := fun he => .inl he
            clock := fun _ => .inr (by
              rw [loadDivider_dividerQ s hu]
              exact ⟨rfl, hu⟩) }
  · exact { HostEffect.refl s with
            frame := rfl
            locked := fun he => absurd he (by simp [hen])
            enabled := fun he => by cases he
            fault := .inr ⟨.inl hen, rfl, rfl, rfl⟩
            clock := fun hc => by
              have : dividerUsable (dividerOf s.config s.sysclk.toNat) = true := hc
              simp [hu] at this }

/-- Every host operation is a `HostEffect`. -/
theorem exec_hostEffect {i : Instr} (hi : isMicro i = false) {s h : State} (hx : exec i s = .next h) :
    HostEffect s h := by
  cases i with
  | jmp => cases hi
  | jmpNotX => cases hi
  | outX => cases hi
  | nop => cases hi
  | setPindirs => cases hi
  | ctrlW v => simp only [exec_ctrlW, Host.Outcome.next.injEq] at hx; subst hx; exact .of_ctrl s v
  | ctrlR => injection hx with hx; subst hx; exact .of_answer s _
  | statR => injection hx with hx; subst hx; exact .of_answer s _
  | debugR => injection hx with hx; subst hx; exact .of_answer s _
  | debugW v => injection hx with hx; subst hx; exact .of_debug s _
  | faultR => injection hx with hx; subst hx; exact .of_answer s _
  | sysclkW v =>
    simp only [exec_sysclkW, Host.Outcome.next.injEq] at hx
    subst hx
    split
    · exact .of_debug s _
    · next he => exact { HostEffect.refl s with
                         frame := rfl, locked := fun h => absurd h he, enabled := fun h => .inl h
                         clock := fun h => by cases h }
  | sysclkR => injection hx with hx; subst hx; exact .of_answer s _
  | clkdivR => injection hx with hx; subst hx; exact .of_answer s _
  | clkcfgW v =>
    simp only [exec_clkcfgW, Host.Outcome.next.injEq] at hx
    subst hx
    split
    · exact .of_debug s _
    · next he => exact .of_clkcfg s (by simpa using he)
  | wrapW v =>
    simp only [exec_wrapW, Host.Outcome.next.injEq] at hx
    subst hx
    split
    · exact .of_debug s _
    · next he => exact { HostEffect.refl s with frame := rfl, locked := fun h => absurd h he }
  | wrapR => injection hx with hx; subst hx; exact .of_answer s _
  | txfW v => injection hx with hx; subst hx; exact .of_push s v
  | pixpushW v => injection hx with hx; subst hx; exact .of_push s _
  | claimR => injection hx with hx; subst hx; exact .of_read s true _ s.draws fun _ => rfl
  | palgenW v =>
    simp only [exec_palgenW, Host.Outcome.next.injEq] at hx
    subst hx
    split
    · exact .of_debug s _
    · next hb => exact { HostEffect.refl s with
                         frame := rfl, palette := .inr ⟨by simpa using hb, rfl, rfl, rfl⟩ }
  | addrR => injection hx with hx; subst hx; exact .of_answer s _
  | imemW i v =>
    simp only [exec_imemW, Host.Outcome.next.injEq] at hx
    subst hx
    split
    · exact .of_debug s _
    · next he => exact { HostEffect.refl s with
                         frame := rfl, locked := fun h => absurd h he
                         imem := fun hl h => Memory.wf_write s.imem _ (by rw [(Config.ranges_of_legal hl).imemSize]; exact i.isLt) h }
  | palR k =>
    simp only [exec_palR, Host.Outcome.next.injEq] at hx
    subst hx
    split
    · exact .of_read s s.owned _ _ id
    · exact .of_answer s 0

/-- The host's part of a cycle is a `HostEffect`. -/
theorem hostCycle_effect {access : Option HostAccess} {s h : State} (hx : hostCycle access s = .next h) :
    HostEffect s h := by
  obtain ⟨-, he⟩ | ⟨a, i, -, hd, he⟩ | ⟨a, r, -, -, he⟩ := hostCycle_cases access s <;> rw [he] at hx
  · injection hx with hx; subst hx; exact .refl s
  · exact exec_hostEffect (decodeAccess_isHost hd) hx
  · injection hx with hx
    subst hx
    unfold State.ignoredAccess
    split
    · exact .refl s
    · exact .of_answer s 0

/-! ### ENC -/

/-- Everything a tick of ENC can do to the state it is given. -/
structure EncEffect (s e : State) : Prop where
  /-- The state elements ENC never writes. -/
  frame : e = { s with
    x := e.x, xWritten := e.xWritten, pc := e.pc, delayCtr := e.delayCtr, osr := e.osr, osrCount := e.osrCount,
    wsOut := e.wsOut, wsOe := e.wsOe, dbg := e.dbg, fifo := e.fifo, fault := e.fault, en := e.en }
  /-- At most the oldest word leaves the FIFO, and it is then the OSR (R48, R87). -/
  fifo : e.fifo = s.fifo ∨ (s.fifo = e.osr :: e.fifo ∧ e.osrCount = 0)
  /-- The count stays in its range (R14). -/
  osrCount : s.config.legal = true → s.osrCount.toNat ≤ 32 → e.osrCount.toNat ≤ 32
  /-- Fault entry with code 1, or nothing of it (R82, R202). -/
  fault : (e.fault = s.fault ∧ e.en = s.en)
    ∨ (s.delayCtr = 0 ∧ decodeMicro s.fetchWord = .error .illegalWord ∧ e = s.raiseIllegal)
  /-- X is written by a completing `OUT X, 1` alone (R10). -/
  x : (e.x = s.x ∧ e.xWritten = s.xWritten)
    ∨ (s.delayCtr = 0 ∧ s.osrCount.toNat < s.config.pullThresh ∧ (∃ side delay, decodeMicro s.fetchWord = .ok (.outX side delay))
        ∧ e.x = s.osr.getLsbD 31 ∧ e.xWritten = true)
  /-- The pin direction is written by `SET PINDIRS` alone (R15). -/
  wsOe : e.wsOe = s.wsOe
    ∨ (s.delayCtr = 0 ∧ ∃ side delay, decodeMicro s.fetchWord = .ok (.setPindirs e.wsOe side delay))
  /-- ENC sets no DEBUG flag but TXSTALL and clears none. -/
  dbg : e.dbg = s.dbg ∨ e.dbg = { s.dbg with txstall := true }

/-! The fields a tick of ENC leaves alone, one by one. -/

theorem EncEffect.config_eq {s e : State} (eff : EncEffect s e) : e.config = s.config := by
  have h := congrArg State.config eff.frame
  exact h

theorem EncEffect.sysclk_eq {s e : State} (eff : EncEffect s e) : e.sysclk = s.sysclk := by
  have h := congrArg State.sysclk eff.frame
  exact h

theorem EncEffect.clkInt_eq {s e : State} (eff : EncEffect s e) : e.clkInt = s.clkInt := by
  have h := congrArg State.clkInt eff.frame
  exact h

theorem EncEffect.clkFrac_eq {s e : State} (eff : EncEffect s e) : e.clkFrac = s.clkFrac := by
  have h := congrArg State.clkFrac eff.frame
  exact h

theorem EncEffect.clkValid_eq {s e : State} (eff : EncEffect s e) : e.clkValid = s.clkValid := by
  have h := congrArg State.clkValid eff.frame
  exact h

theorem EncEffect.acc_eq {s e : State} (eff : EncEffect s e) : e.acc = s.acc := by
  have h := congrArg State.acc eff.frame
  exact h

theorem EncEffect.wrapBottom_eq {s e : State} (eff : EncEffect s e) : e.wrapBottom = s.wrapBottom := by
  have h := congrArg State.wrapBottom eff.frame
  exact h

theorem EncEffect.wrapTop_eq {s e : State} (eff : EncEffect s e) : e.wrapTop = s.wrapTop := by
  have h := congrArg State.wrapTop eff.frame
  exact h

theorem EncEffect.owned_eq {s e : State} (eff : EncEffect s e) : e.owned = s.owned := by
  have h := congrArg State.owned eff.frame
  exact h

theorem EncEffect.imem_eq {s e : State} (eff : EncEffect s e) : e.imem = s.imem := by
  have h := congrArg State.imem eff.frame
  exact h

theorem EncEffect.pal_eq {s e : State} (eff : EncEffect s e) : e.pal = s.pal := by
  have h := congrArg State.pal eff.frame
  exact h

theorem EncEffect.palDone_eq {s e : State} (eff : EncEffect s e) : e.palDone = s.palDone := by
  have h := congrArg State.palDone eff.frame
  exact h

theorem EncEffect.palBusy_eq {s e : State} (eff : EncEffect s e) : e.palBusy = s.palBusy := by
  have h := congrArg State.palBusy eff.frame
  exact h

theorem EncEffect.palTimer_eq {s e : State} (eff : EncEffect s e) : e.palTimer = s.palTimer := by
  have h := congrArg State.palTimer eff.frame
  exact h

theorem EncEffect.inputs_eq {s e : State} (eff : EncEffect s e) : e.inputs = s.inputs := by
  have h := congrArg State.inputs eff.frame
  exact h

theorem EncEffect.hRdata_eq {s e : State} (eff : EncEffect s e) : e.hRdata = s.hRdata := by
  have h := congrArg State.hRdata eff.frame
  exact h

theorem EncEffect.draws_eq {s e : State} (eff : EncEffect s e) : e.draws = s.draws := by
  have h := congrArg State.draws eff.frame
  exact h

theorem EncEffect.resets_eq {s e : State} (eff : EncEffect s e) : e.resets = s.resets := by
  have h := congrArg State.resets eff.frame
  exact h

/-- What a refill changes, and how (R87): a shift may stand before it only below PULL_THRESH. -/
theorem State.refill_spec (s : State) (shifted : Bool) (hs : shifted = true → s.osrCount.toNat < s.config.pullThresh) :
    ∃ o c f, s.refill shifted = { s with osr := o, osrCount := c, fifo := f }
      ∧ (f = s.fifo ∨ (s.fifo = o :: f ∧ c = 0)) ∧ (s.config.legal = true → s.osrCount.toNat ≤ 32 → c.toNat ≤ 32) := by
  obtain ⟨w, rest, hf, -, hr⟩ | ⟨-, hr⟩ := State.refill_cases s shifted
  · exact ⟨w, 0, rest, hr, .inr ⟨hf, rfl⟩, fun _ _ => by simp⟩
  · refine ⟨_, _, s.fifo, hr, .inl rfl, fun hl h => ?_⟩
    cases shifted with
    | false => exact h
    | true =>
      have := hs rfl
      have := (Config.ranges_of_legal hl).pullThresh
      have one : (1 : BitVec 6).toNat = 1 := rfl
      simp only [State.shiftedCount, if_true, BitVec.toNat_add, one]
      omega

/-- A stalling OUT sets TXSTALL or nothing (R86). -/
theorem State.noteStall_spec (s : State) :
    ∃ d, s.noteStall = { s with dbg := d } ∧ (d = s.dbg ∨ d = { s.dbg with txstall := true }) := by
  unfold State.noteStall
  split
  · exact ⟨_, rfl, .inr rfl⟩
  · exact ⟨s.dbg, rfl, .inl rfl⟩

/-- A tick that shifts nothing and does not stall. -/
theorem EncEffect.of_plain (s : State) (oe : Bool) (pc : BitVec 5) (d : BitVec 4) (side : Bool)
    (ho : oe = s.wsOe
      ∨ (s.delayCtr = 0 ∧ ∃ side delay, decodeMicro s.fetchWord = .ok (.setPindirs oe side delay))) :
    EncEffect s ({ s with wsOe := oe, pc := pc, delayCtr := d, wsOut := side }.refill false) := by
  obtain ⟨o, c, f, h, hf, hc⟩ :=
    State.refill_spec { s with wsOe := oe, pc := pc, delayCtr := d, wsOut := side } false (by simp)
  rw [h]
  exact ⟨rfl, hf, hc, .inl ⟨rfl, rfl⟩, .inl ⟨rfl, rfl⟩, ho, .inl rfl⟩

/-- The two ticks of `OUT X, 1`. -/
theorem EncEffect.of_outX (s : State) (side : Bool) (delay : BitVec 4) (hd : s.delayCtr = 0)
    (hdec : decodeMicro s.fetchWord = .ok (.outX side delay)) :
    EncEffect s (if s.osrEmpty then s.outStall side else s.outShift side delay) := by
  by_cases ho : s.osrEmpty = true
  · rw [if_pos ho]
    obtain ⟨d, hn, hdbg⟩ := State.noteStall_spec (s.setSide side)
    obtain ⟨o, c, f, h, hf, hc⟩ := State.refill_spec { s.setSide side with dbg := d } false (by simp)
    rw [State.outStall, hn, h]
    exact ⟨rfl, hf, hc, .inl ⟨rfl, rfl⟩, .inl ⟨rfl, rfl⟩, .inl rfl, hdbg⟩
  · have hlt : s.osrCount.toNat < s.config.pullThresh := by
      simp only [State.osrEmpty, decide_eq_true_eq, Nat.not_le] at ho
      exact ho
    rw [if_neg ho]
    obtain ⟨o, c, f, h, hf, hc⟩ := State.refill_spec
      { (s.setSide side).complete false 0 delay with x := s.config.shiftDir.nextBit s.osr, xWritten := true } true (fun _ => hlt)
    rw [State.outShift, h]
    exact ⟨rfl, hf, hc, .inl ⟨rfl, rfl⟩,
      .inr ⟨hd, hlt, ⟨side, delay, hdec⟩, ShiftDir.nextBit_eq s.config.shiftDir s.osr, rfl⟩, .inl rfl, .inl rfl⟩

/-- A tick of ENC is an `EncEffect`. -/
theorem encTick_effect {s e : State} (hx : encTick s = .next e) : EncEffect s e := by
  obtain ⟨hd, h⟩ | ⟨hd, i, hdec, h⟩ | ⟨hd, r, hdec, h⟩ := encTick_cases s <;> rw [h] at hx
  · injection hx with hx
    subst hx
    exact EncEffect.of_plain s s.wsOe s.pc (s.delayCtr - 1) s.wsOut (.inl rfl)
  · obtain ⟨i', hdec', hm⟩ | hill := decodeMicro_cases s.fetchWord
    · have : i' = i := by rw [hdec] at hdec'; injection hdec' with h'; exact h'.symm
      subst this
      cases i' with
      | jmp side delay addr => injection hx with hx; subst hx; exact EncEffect.of_plain s s.wsOe _ _ side (.inl rfl)
      | jmpNotX side delay addr => injection hx with hx; subst hx; exact EncEffect.of_plain s s.wsOe _ _ side (.inl rfl)
      | nop side delay => injection hx with hx; subst hx; exact EncEffect.of_plain s s.wsOe _ _ side (.inl rfl)
      | setPindirs d side delay =>
        injection hx with hx; subst hx; exact EncEffect.of_plain s d _ _ side (.inr ⟨hd, side, delay, hdec⟩)
      | outX side delay => injection hx with hx; subst hx; exact EncEffect.of_outX s side delay hd hdec
      | _ => cases hm
    · rw [hdec] at hill; cases hill
  · injection hx with hx
    subst hx
    obtain ⟨i', hdec', -⟩ | hill := decodeMicro_cases s.fetchWord
    · rw [hdec] at hdec'; cases hdec'
    · exact ⟨rfl, .inl rfl, fun _ => id, .inr ⟨hd, hill, rfl⟩, .inl ⟨rfl, rfl⟩, .inl rfl, .inl rfl⟩

/-! ### A push that is dropped and a tick of ENC touch different DEBUG flags -/

/-- `s` with TXOVER set. -/
def State.withTxover (s : State) : State := { s with dbg := { s.dbg with txover := true } }

theorem State.refill_withTxover (s : State) (shifted : Bool) :
    s.withTxover.refill shifted = (s.refill shifted).withTxover := by
  obtain ⟨w, rest, hf, hc, hr⟩ | ⟨hc, hr⟩ := State.refill_cases s shifted
  · rw [hr, State.refill_takes (s := s.withTxover) (w := w) (rest := rest) hf hc]; rfl
  · rw [hr, State.refill_keeps (s := s.withTxover) hc]; rfl

theorem State.outStall_withTxover (s : State) (side : Bool) :
    s.withTxover.outStall side = (s.outStall side).withTxover := by
  have note : (s.withTxover.setSide side).noteStall = (s.setSide side).noteStall.withTxover := by
    unfold State.noteStall
    by_cases h : (s.setSide side).fifoLevel = 0
    · rw [if_pos h, if_pos (show (s.withTxover.setSide side).fifoLevel = 0 from h)]; rfl
    · rw [if_neg h, if_neg (show ¬ (s.withTxover.setSide side).fifoLevel = 0 from h)]; rfl
  unfold State.outStall
  rw [note, State.refill_withTxover]

/-- ENC's tick neither reads TXOVER nor writes it. -/
theorem encTick_withTxover {s e : State} (h : encTick s = .next e) : encTick s.withTxover = .next e.withTxover := by
  have hw : s.withTxover.fetchWord = s.fetchWord := rfl
  obtain ⟨hd, q⟩ | ⟨hd, i, hdec, q⟩ | ⟨hd, r, hdec, q⟩ := encTick_cases s <;> rw [q] at h
  · injection h with h
    subst h
    unfold encTick
    rw [if_pos (show s.withTxover.delayCtr ≠ 0 from hd)]
    exact congrArg _ (State.refill_withTxover { s with delayCtr := s.delayCtr - 1 } false)
  · unfold encTick
    rw [if_neg (show ¬ s.withTxover.delayCtr ≠ 0 from fun k => k hd), hw, hdec]
    obtain ⟨j, hj, hm⟩ | hill := decodeMicro_cases s.fetchWord
    · have hji : j = i := by rw [hdec] at hj; injection hj with h'; exact h'.symm
      subst hji
      cases j with
      | outX side delay =>
        simp only [exec_outX] at h ⊢
        injection h with h
        subst h
        by_cases ho : s.osrEmpty = true
        · rw [if_pos ho, if_pos (show s.withTxover.osrEmpty = true from ho), State.outStall_withTxover]
        · rw [if_neg ho, if_neg (show ¬ s.withTxover.osrEmpty = true from ho)]
          unfold State.outShift
          rw [← State.refill_withTxover]
          rfl
      | jmp _ _ _ | jmpNotX _ _ _ | nop _ _ | setPindirs _ _ _ =>
        injection h with h
        subst h
        dsimp only [exec_jmp, exec_jmpNotX, exec_nop, exec_setPindirs]
        unfold State.instructionTick
        rw [← State.refill_withTxover]
        rfl
      | _ => cases hm
    · rw [hdec] at hill; cases hill
  · injection h with h
    subst h
    unfold encTick
    rw [if_neg (show ¬ s.withTxover.delayCtr ≠ 0 from fun k => k hd), hw, hdec]
    rfl

/-! ### The cycle -/

/-- `Q` as a number (R116). -/
theorem dividerQ_toNat (s : State) : s.dividerQ.toNat = s.clkInt.toNat * 256 + s.clkFrac.toNat := by
  simp only [State.dividerQ, BitVec.toNat_append]
  rw [← Nat.shiftLeft_add_eq_or_of_lt s.clkFrac.isLt, Nat.shiftLeft_eq]

/-- While EN = 1 the host cannot change the word ENC is about to fetch (R55). -/
theorem HostEffect.fetchWord_eq {s h : State} (eff : HostEffect s h) (hen : s.en = true) (f : List Word) :
    ({ h with fifo := f } : State).fetchWord = s.fetchWord := by
  have himem := (eff.locked hen).2.2.2.2.2.2
  simp only [State.fetchWord, State.imemWord, eff.pc_eq, himem, eff.resets_eq]

/-- The words the commit appends are the ones the host pushed. -/
theorem pushedWords_of_append {s h : State} {pushed : List Word} (hf : h.fifo = s.fifo ++ pushed) :
    pushedWords s h = pushed := by
  simp [pushedWords, hf]

/-- What the commit of a cycle writes beside what the host and ENC left (R50, R116, R166). -/
theorem closeCycle_eq (s h e : State) : closeCycle s h e = { e with
    fifo := e.fifo ++ pushedWords s h
    acc := s.tickgenAcc
    pal := if s.palBusy = true ∧ ¬ 1 < e.palTimer then paletteOf e.config else e.pal
    palDone := if s.palBusy = true ∧ ¬ 1 < e.palTimer then true else e.palDone
    palBusy := if s.palBusy = true ∧ ¬ 1 < e.palTimer then false else e.palBusy
    palTimer := if s.palBusy = true then (if 1 < e.palTimer then e.palTimer - 1 else 0) else e.palTimer } := by
  unfold closeCycle
  by_cases hb : s.palBusy = true
  · by_cases ht : 1 < e.palTimer <;> simp [hb, ht, State.colorStep]
  · simp [hb]

/-- A cycle without reset, said once: the host's effect on the state at the start of the cycle, ENC's on what
the host left with the FIFO as it stood, and the commit. -/
theorem step_effect {s t : State} (hr : s.nextPort.rstN = true) (h : step s = .next t) :
    ∃ hs e pushed, hostCycle s.nextPort.access s.openCycle = .next hs ∧ HostEffect s.openCycle hs
      ∧ hs.fifo = s.fifo ++ pushed ∧ pushed.length ≤ 1 ∧ (pushed ≠ [] → s.fifo.length < s.config.fifoDepth)
      ∧ ((s.isTick = true ∧ encTick { hs with fifo := s.fifo } = .next e ∧ EncEffect { hs with fifo := s.fifo } e)
          ∨ (s.isTick = false ∧ e = { hs with fifo := s.fifo }))
      ∧ t = closeCycle s.openCycle hs e ∧ pushedWords s.openCycle hs = pushed := by
  obtain ⟨hr', -⟩ | ⟨-, hs, e, hh, he, ht⟩ := step_cases h
  · rw [hr] at hr'; cases hr'
  · have eff := hostCycle_effect hh
    obtain ⟨pushed, hp, hl, hroom⟩ := eff.fifo
    refine ⟨hs, e, pushed, hh, eff, hp, hl, hroom, ?_, ht, pushedWords_of_append hp⟩
    unfold encCycle at he
    by_cases htick : s.isTick = true
    · rw [if_pos (show s.openCycle.isTick = true from htick)] at he
      exact .inl ⟨htick, he, encTick_effect he⟩
    · rw [if_neg (show ¬ s.openCycle.isTick = true from htick)] at he
      injection he with he
      exact .inr ⟨by simpa using htick, he.symm⟩

end Sys2Proof.Machine
end

