-- ==== Sys2Proof/Laws/PerInstr.lean ====
section
/-! SUPPORT. A statement about every instruction as syntax, one lemma per constructor: which code space it lives
in, and the fixed bits of its row of spec/opcode_table.json. -/

namespace Sys2Proof.Laws.TableRow

/-- The row of spec/opcode_table.json: the mask and match of the micro-instruction word, or of the 9-bit pattern
`h_write || h_addr`. -/
def row : Instr → Nat × Nat
  | .jmp _ _ _ => (0xE0E0, 0x0000)
  | .jmpNotX _ _ _ => (0xE0E0, 0x0020)
  | .outX _ _ => (0xE0FF, 0x6021)
  | .nop _ _ => (0xE0FF, 0xA042)
  | .setPindirs _ _ _ => (0xE0FE, 0xE080)
  | .ctrlW _ => (0x1FF, 0x100)
  | .ctrlR => (0x1FF, 0x000)
  | .statR => (0x1FF, 0x001)
  | .debugR => (0x1FF, 0x002)
  | .debugW _ => (0x1FF, 0x102)
  | .faultR => (0x1FF, 0x003)
  | .sysclkW _ => (0x1FF, 0x104)
  | .sysclkR => (0x1FF, 0x004)
  | .clkdivR => (0x1FF, 0x005)
  | .clkcfgW _ => (0x1FF, 0x106)
  | .wrapW _ => (0x1FF, 0x107)
  | .wrapR => (0x1FF, 0x007)
  | .txfW _ => (0x1FF, 0x108)
  | .pixpushW _ => (0x1FF, 0x109)
  | .claimR => (0x1FF, 0x00A)
  | .palgenW _ => (0x1FF, 0x10B)
  | .addrR => (0x1FF, 0x00C)
  | .imemW _ _ => (0x1E0, 0x120)
  | .palR _ => (0x180, 0x080)

/-- The opcode bits of a code: the instruction word, or `h_write || h_addr`. -/
def opcode : Code → Nat
  | .micro w => w.toNat
  | .access a => (if a.write then 0x100 else 0) + a.addr.toNat

/-- An instruction's code has the fixed bits of its row. -/
def Statement (i : Instr) : Prop := opcode (encode i) &&& (row i).1 = (row i).2

theorem jmp (side : Bool) (delay : BitVec 4) (addr : BitVec 5) : Statement (.jmp side delay addr) := by
  revert side delay addr; unfold Statement; decide +kernel
theorem jmpNotX (side : Bool) (delay : BitVec 4) (addr : BitVec 5) : Statement (.jmpNotX side delay addr) := by
  revert side delay addr; unfold Statement; decide +kernel
theorem outX (side : Bool) (delay : BitVec 4) : Statement (.outX side delay) := by
  revert side delay; unfold Statement; decide
theorem nop (side : Bool) (delay : BitVec 4) : Statement (.nop side delay) := by
  revert side delay; unfold Statement; decide
theorem setPindirs (d side : Bool) (delay : BitVec 4) : Statement (.setPindirs d side delay) := by
  revert d side delay; unfold Statement; decide
theorem ctrlW (v : Word) : Statement (.ctrlW v) := by
  simp [Statement, encode, writeAt, opcode, row]
theorem ctrlR : Statement .ctrlR := rfl
theorem statR : Statement .statR := rfl
theorem debugR : Statement .debugR := rfl
theorem debugW (v : Word) : Statement (.debugW v) := by
  simp [Statement, encode, writeAt, opcode, row]
theorem faultR : Statement .faultR := rfl
theorem sysclkW (v : Word) : Statement (.sysclkW v) := by
  simp [Statement, encode, writeAt, opcode, row]
theorem sysclkR : Statement .sysclkR := rfl
theorem clkdivR : Statement .clkdivR := rfl
theorem clkcfgW (v : Word) : Statement (.clkcfgW v) := by
  simp [Statement, encode, writeAt, opcode, row]
theorem wrapW (v : Word) : Statement (.wrapW v) := by
  simp [Statement, encode, writeAt, opcode, row]
theorem wrapR : Statement .wrapR := rfl
theorem txfW (v : Word) : Statement (.txfW v) := by
  simp [Statement, encode, writeAt, opcode, row]
theorem pixpushW (v : Word) : Statement (.pixpushW v) := by
  simp [Statement, encode, writeAt, opcode, row]
theorem claimR : Statement .claimR := rfl
theorem palgenW (v : Word) : Statement (.palgenW v) := by
  simp [Statement, encode, writeAt, opcode, row]
theorem addrR : Statement .addrR := rfl
theorem imemW (i : BitVec 5) (v : Word) : Statement (.imemW i v) := by
  simp only [Statement, encode, writeAt, opcode, row]; revert i; decide
theorem palR (k : BitVec 7) : Statement (.palR k) := by
  revert k; unfold Statement; decide

end Sys2Proof.Laws.TableRow
end

