-- ==== Sys2Proof/Laws/Runs.lean ====
section
/-! SUPPORT. Runs of ENC's ticks taken one tick or one part at a time, and the fetches of the canonical program. -/

namespace Sys2Proof.Machine

/-- The first tick of a run. -/
theorem encTicks_succ {s t : State} (h : encTick s = .next t) (n : Nat) : encTicks (n + 1) s = encTicks n t := by
  simp only [encTicks, h, andThen]

/-- The first level of a waveform. -/
theorem encTrace_succ {s t : State} (h : encTick s = .next t) (n : Nat) :
    encTrace (n + 1) s = t.wsOut :: encTrace n t := by
  simp only [encTrace, h]

/-- A run in two parts. -/
theorem encTicks_add (m n : Nat) {s t : State} (h : encTicks m s = .next t) :
    encTicks (m + n) s = encTicks n t := by
  induction m generalizing s with
  | zero => injection h with h; subst h; simp
  | succ m ih =>
    obtain ⟨u, hu⟩ := encTick_answers_next s
    rw [encTicks_succ hu] at h
    rw [Nat.add_right_comm, encTicks_succ hu, ih h]

/-- A waveform in two parts. -/
theorem encTrace_add (m n : Nat) {s t : State} (h : encTicks m s = .next t) :
    encTrace (m + n) s = encTrace m s ++ encTrace n t := by
  induction m generalizing s with
  | zero => injection h with h; subst h; simp [encTrace]
  | succ m ih =>
    obtain ⟨u, hu⟩ := encTick_answers_next s
    rw [encTicks_succ hu] at h
    rw [Nat.add_right_comm, encTrace_succ hu, encTrace_succ hu, ih h, List.cons_append]

/-- What ENC fetches in the canonical program (R96). -/
theorem State.Canonical.fetchWord_eq {s : State} (h : s.Canonical) (i : Fin 5) (hpc : s.pc.toNat = i) :
    some s.fetchWord = (canonicalProgram s.config.t1 s.config.t2 s.config.t3)[i]? := by
  have hw := h.1 i
  rw [← hw, ← hpc]
  simp only [State.fetchWord, State.imemWord]
  cases hr : s.imem.read s.pc.toNat with
  | some w => rfl
  | none =>
    rw [hpc, hw] at hr
    exact absurd hr (by fin_cases i <;> simp [canonicalProgram])

/-- What ENC decodes in the canonical program, for every legal T1, T2, T3 (R96). -/
theorem State.Canonical.decode_eq {s : State} (h : s.Canonical) (hl : s.config.legal = true) (i : Fin 5)
    (hpc : s.pc.toNat = i) :
    some (decodeMicro s.fetchWord) =
      ([.ok (.setPindirs true false 0), .ok (.outX false (BitVec.ofNat 4 (s.config.t3 - 1))),
        .ok (.jmpNotX true (BitVec.ofNat 4 (s.config.t1 - 1)) 4),
        .ok (.jmp true (BitVec.ofNat 4 (s.config.t2 - 1)) 1),
        .ok (.nop false (BitVec.ofNat 4 (s.config.t2 - 1)))] : List (Except Reject Instr))[i]? := by
  have hw := congrArg (Option.map decodeMicro) (h.fetchWord_eq i hpc)
  rw [Fin.getElem?_fin, ← List.getElem?_map, canonicalProgram_decode hl] at hw
  exact hw

/-- A refill that has nothing to take and nothing to shift changes nothing. -/
theorem State.refill_settled {s : State} (h : ¬ (s.config.pullThresh ≤ s.osrCount.toNat ∧ s.fifo ≠ [])) :
    s.refill false = s := by
  rw [State.refill_keeps (shifted := false) h]
  rfl

/-- A delay tick that has nothing to take only counts down. -/
theorem encTick_settled {s : State} (h : ¬ (s.config.pullThresh ≤ s.osrCount.toNat ∧ s.fifo ≠ []))
    (hd : s.delayCtr ≠ 0) : encTick s = .next { s with delayCtr := s.delayCtr - 1 } := by
  unfold encTick State.delayTick
  rw [if_pos hd, State.refill_settled (s := { s with delayCtr := s.delayCtr - 1 }) h]

/-- A whole delay that has nothing to take counts down to 0 and holds the level (R81). -/
theorem encTicks_delay (n : Nat) {s : State} (h : ¬ (s.config.pullThresh ≤ s.osrCount.toNat ∧ s.fifo ≠ []))
    (hn : s.delayCtr.toNat = n) :
    encTicks n s = .next { s with delayCtr := 0 } ∧ encTrace n s = List.replicate n s.wsOut := by
  induction n generalizing s with
  | zero =>
    have h0 : s.delayCtr = 0 := BitVec.eq_of_toNat_eq hn
    exact ⟨by rw [← h0]; rfl, rfl⟩
  | succ n ih =>
    have hd : s.delayCtr ≠ 0 := fun h0 => by rw [h0] at hn; cases hn
    have hm : (s.delayCtr - 1).toNat = n := by
      have := s.delayCtr.isLt
      have one : (1 : BitVec 4).toNat = 1 := rfl
      rw [BitVec.toNat_sub, one]
      omega
    obtain ⟨run, trace⟩ := ih (s := { s with delayCtr := s.delayCtr - 1 }) h hm
    have tick := encTick_settled h hd
    exact ⟨by rw [encTicks_succ tick, run], by rw [encTrace_succ tick, trace, List.replicate_succ]⟩

end Sys2Proof.Machine
end

