-- ==== Sys2Proof/Tests/Slice0.lean ====
section
/-! SUPPORT. Tests against the words, tables and vectors of spec/ (each names its source), and for every claim with
hypotheses a concrete state that meets them. -/

namespace Sys2Proof.Tests

open Sys2Proof Sys2Proof.Machine Sys2Proof.Claims

/-! ### Helpers -/

/-- One field of the next state, if there is one. -/
def field {α : Type} (r : Result State) (f : State → α) : Option α :=
  match r with
  | .next t => some (f t)
  | _ => none

/-- Reset, then a usable clock at one tick per cycle, the canonical loop bounds, and EN = 1, as after the boot prefix
B(8 000 000) of spec/95_test_vectors.md part 3. -/
def running : State :=
  { State.reset with
    en := true, clkValid := true, sysclk := 8000000, clkInt := 1, wrapBottom := 1, wrapTop := 4, owned := true }

/-- `running` about to fetch the word `w` at `pc`. -/
def atWord (pc : BitVec 5) (w : Half) : State :=
  { running with pc := pc, imem := [(pc.toNat, w)] }

/-- `running` with the canonical program loaded, about to fetch at `pc`. -/
def canonicalAt (pc : BitVec 5) : State :=
  { running with pc := pc, imem := [(0, 0xE081), (1, 0x6221), (2, 0x1124), (3, 0x1401), (4, 0xA442)] }

/-- `s` with one host write in the next cycle. -/
def writing (addr : Byte) (v : Word) (s : State) : State := { s with inputs := [⟨true, some ⟨true, addr, v⟩⟩] }

/-- `s` with one host read in the next cycle. -/
def reading (addr : Byte) (s : State) : State := { s with inputs := [⟨true, some ⟨false, addr, 0⟩⟩] }

/-- The value a host read answers in the next cycle. -/
def readValue (addr : Byte) (s : State) : Option Word := (field (step (reading addr s)) (·.hRdata)).join

/-- The other timing parameters of spec/95_test_vectors.md P8, with one LED and a FIFO of one word. -/
def other : Config := { wsenc with t1 := 3, t2 := 3, t3 := 4, nLeds := 1, fifoDepth := 1 }

theorem other_legal : other.legal = true := by simp [Config.legal, other, wsenc, Config.fracInUnit]

/-- `canonicalAt` with the parameters of `other` and the words P8 gives. -/
def otherAt (pc : BitVec 5) : State :=
  { running with
    config := other, pc := pc, imem := [(0, 0xE081), (1, 0x6321), (2, 0x1224), (3, 0x1201), (4, 0xA242)] }

/-! ### WellFormed refuses an ill-formed term -/

/-- PAL.R k needs k < N_LEDS (spec/30_encoding.md R69): of 12, 11 is the last, 12 and 127 are not instructions; of 1,
1 is none. -/
theorem test_wellFormed_palette_index :
    (Instr.palR 11).wellFormed wsenc = true ∧ (Instr.palR 12).wellFormed wsenc = false
    ∧ (Instr.palR 127).wellFormed wsenc = false
    ∧ (Instr.palR 0).wellFormed other = true ∧ (Instr.palR 1).wellFormed other = false := by
  decide

/-! ### Decoding: a word from the spec for every constructor -/

/-- Legal words of spec/95_test_vectors.md section 2.1, all five micro-instructions. -/
theorem test_decode_micro :
    decodeMicro 0b0001111100011111 = .ok (.jmp true 15 31)
    ∧ decodeMicro 0x0000 = .ok (.jmp false 0 0)
    ∧ decodeMicro 0b0001000100100011 = .ok (.jmpNotX true 1 3)
    ∧ decodeMicro 0b0111111100100001 = .ok (.outX true 15)
    ∧ decodeMicro 0b1011111101000010 = .ok (.nop true 15)
    ∧ decodeMicro 0b1111000010000000 = .ok (.setPindirs false true 0)
    ∧ decodeMicro 0xFF81 = .ok (.setPindirs true true 15) := by
  decide

/-- Illegal words of spec/95_test_vectors.md section 2.1, every reason of spec/30_encoding.md R68. -/
theorem test_decode_reserved :
    [0x0040#16, 0x00E0#16, 0x1144#16, 0x2000#16, 0x4000#16, 0x8000#16, 0x80A0#16, 0xC000#16, 0x6020#16, 0x6022#16,
      0x6000#16, 0x7FFF#16, 0x6001#16, 0x6041#16, 0xA043#16, 0xA041#16, 0xA04A#16, 0xA022#16, 0xE082#16, 0xE09F#16,
      0xE000#16, 0xE001#16, 0xE0A1#16, 0xFFFF#16].all
      (fun w => decide (decodeMicro w = .error .illegalWord)) = true := by
  decide

/-- The write patterns of spec/30_encoding.md R69. -/
theorem test_decode_writes :
    decodeAccess wsenc ⟨true, 0b00000000, 1⟩ = .ok (.ctrlW 1)
    ∧ decodeAccess wsenc ⟨true, 0b00000010, 7⟩ = .ok (.debugW 7)
    ∧ decodeAccess wsenc ⟨true, 0b00000100, 125000000⟩ = .ok (.sysclkW 125000000)
    ∧ decodeAccess wsenc ⟨true, 0b00000110, 0⟩ = .ok (.clkcfgW 0)
    ∧ decodeAccess wsenc ⟨true, 0b00000111, 0x0401⟩ = .ok (.wrapW 0x0401)
    ∧ decodeAccess wsenc ⟨true, 0b00001000, 0x00FF0000⟩ = .ok (.txfW 0x00FF0000)
    ∧ decodeAccess wsenc ⟨true, 0b00001001, 0x00123456⟩ = .ok (.pixpushW 0x00123456)
    ∧ decodeAccess wsenc ⟨true, 0b00001011, 0⟩ = .ok (.palgenW 0)
    ∧ decodeAccess wsenc ⟨true, 0b00111111, 0xA042⟩ = .ok (.imemW 31 0xA042) := by
  decide

/-- The read patterns of spec/30_encoding.md R69. -/
theorem test_decode_reads :
    decodeAccess wsenc ⟨false, 0b00000000, 0⟩ = .ok .ctrlR ∧ decodeAccess wsenc ⟨false, 0b00000001, 0⟩ = .ok .statR
    ∧ decodeAccess wsenc ⟨false, 0b00000010, 0⟩ = .ok .debugR ∧ decodeAccess wsenc ⟨false, 0b00000011, 0⟩ = .ok .faultR
    ∧ decodeAccess wsenc ⟨false, 0b00000100, 0⟩ = .ok .sysclkR
    ∧ decodeAccess wsenc ⟨false, 0b00000101, 0⟩ = .ok .clkdivR
    ∧ decodeAccess wsenc ⟨false, 0b00000111, 0⟩ = .ok .wrapR ∧ decodeAccess wsenc ⟨false, 0b00001010, 0⟩ = .ok .claimR
    ∧ decodeAccess wsenc ⟨false, 0b00001100, 0⟩ = .ok .addrR
    ∧ decodeAccess wsenc ⟨false, 0b10001011, 0⟩ = .ok (.palR 11) := by
  decide

/-- Accesses that are no operation (spec/20_memory.md R45), each side of the boundaries of the map of R44. -/
theorem test_decode_other_accesses :
    decodeAccess wsenc ⟨false, 0x8C, 0⟩ = .error .reservedAddress
    ∧ decodeAccess wsenc ⟨false, 0x0D, 0⟩ = .error .reservedAddress
    ∧ decodeAccess wsenc ⟨false, 0x20, 0⟩ = .error .readOfWriteOnly
    ∧ decodeAccess wsenc ⟨false, 0x3F, 0⟩ = .error .readOfWriteOnly
    ∧ decodeAccess wsenc ⟨true, 0x40, 0⟩ = .error .reservedAddress
    ∧ decodeAccess wsenc ⟨true, 0x8B, 0⟩ = .error .writeOfReadOnly
    ∧ decodeAccess wsenc ⟨true, 0x0A, 0⟩ = .error .writeOfReadOnly
    ∧ decodeAccess wsenc ⟨true, 0x1F, 0⟩ = .error .reservedAddress := by
  decide

/-- Table words (log entry 9): the canonical words, and host patterns of 9 bits with their data above them. -/
theorem test_decodeTableWord :
    decodeTableWord 16 0x6221 = some (.outX false 2) ∧ decodeTableWord 16 0 = some (.jmp false 0 0)
    ∧ decodeTableWord 16 0x8000 = none
    ∧ decodeTableWord 9 0x10A = none ∧ decodeTableWord 9 0x00A = some .claimR
    ∧ decodeTableWord 41 (0x107 + 0x401 * 2 ^ 9) = some (.wrapW 0x401)
    ∧ decodeTableWord 16 0x123 = some (.imemW 3 0) := by
  decide

/-- The canonical program for the parameter sets of spec/95_test_vectors.md section 2.1. -/
theorem test_canonical_words :
    canonicalProgram 2 5 3 = [0xE081, 0x6221, 0x1124, 0x1401, 0xA442]
    ∧ canonicalProgram 3 3 4 = [0xE081, 0x6321, 0x1224, 0x1201, 0xA242]
    ∧ canonicalProgram 1 1 1 = [0xE081, 0x6021, 0x1024, 0x1001, 0xA042]
    ∧ canonicalProgram 16 16 16 = [0xE081, 0x6F21, 0x1F24, 0x1F01, 0xAF42] := by
  decide

/-! ### Micro-instructions (spec/95_test_vectors.md section 2.2) -/

/-- V2.1. -/
theorem test_setPindirs_drive :
    field (step (atWord 0 0xE081)) (fun t => (t.pc, t.wsOe, t.wsOut, t.delayCtr)) = some (1, true, false, 0) := by
  decide

/-- V2.2. -/
theorem test_setPindirs_release :
    field (step { atWord 7 0xF380 with wsOe := true }) (fun t => (t.pc, t.wsOe, t.wsOut, t.delayCtr))
      = some (8, false, true, 3) := by
  decide

/-- V2.6: the 24th bit, with a word waiting. -/
theorem test_outX_last_bit :
    field (step { atWord 1 0x6221 with osr := 0x80000000, osrCount := 23, fifo := [0xAB00CD00, 1] })
      (fun t => (t.x, t.osr, t.osrCount, t.fifo, t.pc))
      = some (true, 0xAB00CD00, 0, [1], 2) := by
  decide

/-- V2.7 and V2.8: the stall with an empty FIFO, and the stall in which the waiting word is taken. -/
theorem test_outX_stall :
    field (step { atWord 1 0x6221 with osrCount := 24, wsOut := true })
        (fun t => (t.pc, t.delayCtr, t.osrCount, t.wsOut, t.dbg.txstall)) = some (1, 0, 24, false, true)
    ∧ field (step { atWord 1 0x6221 with osrCount := 24, fifo := [0x00FF0000] })
        (fun t => (t.pc, t.osr, t.osrCount, t.fifo, t.dbg.txstall)) = some (1, 0x00FF0000, 0, [], false) := by
  decide

/-- V2.10 and V2.11. -/
theorem test_jmpNotX_direction :
    field (step { atWord 2 0x1124 with xWritten := true }) (fun t => (t.pc, t.wsOut, t.delayCtr)) = some (4, true, 1)
    ∧ field (step { atWord 2 0x1124 with xWritten := true, x := true }) (fun t => (t.pc, t.wsOut, t.delayCtr))
        = some (3, true, 1) := by
  decide

/-- V2.12 and V2.13: at WRAP.TOP, the wrap if not taken, the target if taken. -/
theorem test_jmpNotX_at_wrap :
    field (step { atWord 4 0x1124 with xWritten := true, x := true }) (·.pc) = some 1
    ∧ field (step { atWord 4 0x1129 with xWritten := true }) (·.pc) = some 9 := by
  decide

/-- V2.14. -/
theorem test_jmp :
    field (step (atWord 3 0x1401)) (fun t => (t.pc, t.wsOut, t.delayCtr)) = some (1, true, 4) := by
  decide

/-- V2.15, at WRAP.TOP: an always taken jump ignores the wrap. -/
theorem test_jmp_to_itself :
    field (step { atWord 4 0x0004 with wsOut := true }) (fun t => (t.pc, t.wsOut, t.delayCtr)) = some (4, false, 0) := by
  decide

/-- V2.16 and V2.19: the wrap back and the wrap forward. -/
theorem test_nop_wraps :
    field (step (atWord 4 0xA442)) (fun t => (t.pc, t.wsOut, t.delayCtr)) = some (1, false, 4)
    ∧ field (step { atWord 9 0xA042 with wrapTop := 9, wrapBottom := 20 }) (·.pc) = some 20 := by
  decide

/-- V2.17: the successor of 31 without a wrap there. -/
theorem test_nop_successor_modulo_32 : field (step (atWord 31 0xA042)) (·.pc) = some 0 := by decide

/-- V2.20 and V2.21. -/
theorem test_delay_tick :
    field (step { atWord 4 0xE080 with delayCtr := 3, wsOut := true, wsOe := true })
        (fun t => (t.delayCtr, t.pc, t.wsOut, t.wsOe)) = some (2, 4, true, true)
    ∧ field (step { atWord 4 0xA042 with delayCtr := 2, osrCount := 24, fifo := [5] })
        (fun t => (t.delayCtr, t.osr, t.osrCount, t.fifo)) = some (1, 5, 0, []) := by
  decide

/-- V2.22: FAULT.R = 0x80000301, EN = 0, the pin low, no refill. -/
theorem test_illegal_word :
    let s := { atWord 3 0x8000 with wsOut := true, wsOe := true, osrCount := 24, fifo := [5] }
    field (step s) (fun t => (t.faultImage, t.en, t.wsOut)) = some (0x80000301, false, false)
    ∧ field (step s) (fun t => (t.wsOe, t.pc, t.fifo, t.osrCount)) = some (true, 3, [5], 24) := by
  decide

/-! ### Clock configurator and tick generator (spec/95_test_vectors.md section 2.3) -/

/-- `Q` of the table, the usable bound among them. -/
theorem test_divider_values :
    [125000000, 125000999, 133000000, 8031249, 8000000, 7999999, 999, 0, 4294967295].map (dividerOf wsenc)
      = [4000, 4000, 4256, 256, 256, 255, 0, 0, 137438] := by
  decide

/-- V6.3 and V6.6: CLKCFG with a usable and with an unusable clock. -/
theorem test_clkcfg :
    field (step (writing 0x06 0 { State.reset with sysclk := 125000000 }))
        (fun t => (t.clkdivImage, t.clkValid, t.fault)) = some (0x000FA000, true, ⟨0, 0, 0⟩)
    ∧ field (step (writing 0x06 9 { State.reset with sysclk := 7999999, pc := 5 }))
        (fun t => (t.clkdivImage, t.clkValid, t.fault)) = some (0x0000FF00, false, ⟨2, 5, 0⟩) := by
  decide

/-- `acc` for Q = 384: 0 (a tick), 128 (a tick), 256 (no tick), 0. -/
theorem test_tickgen :
    (tickNow true 0, nextAcc true 384 0, tickNow true 128, nextAcc true 384 128, tickNow true 256, nextAcc true 384 256)
      = (true, 128, true, 256, false, 0)
    ∧ nextAcc false 384 128 = 0 ∧ tickNow false 0 = false := by
  decide

/-! ### Pixel word codec (spec/95_test_vectors.md section 2.4) -/

/-- The table of section 2.4. -/
theorem test_pack :
    pack ⟨255, 0, 0⟩ = 0x00FF0000 ∧ pack ⟨0, 255, 0⟩ = 0xFF000000 ∧ pack ⟨0, 0, 255⟩ = 0x0000FF00
    ∧ pack ⟨0x12, 0x34, 0x56⟩ = 0x34125600 ∧ pack ⟨189, 63, 65⟩ = 0x3FBD4100
    ∧ unpack 0x34125600 = ⟨0x12, 0x34, 0x56⟩ := by
  decide

/-! ### COLOR (spec/95_test_vectors.md section 2.5) -/

/-- The sum of all entries, 5 185 152, and single entries. -/
theorem test_gammaLut :
    gammaLut.length = 256 ∧ gammaLut.sum = 5185152 ∧ gammaLut[128]? = some 14028 ∧ gammaLut[255]? = some 65244 := by
  decide +kernel

/-- V5.1 to V5.9. -/
theorem test_gammaEncode :
    [0, 9, 10, 29, 30, 7582, 7583, 14015, 32768, 65243, 65244, 65535].map gammaEncode
      = [0, 0, 1, 1, 2, 95, 96, 127, 188, 254, 255, 255] := by
  decide +kernel

/-- Colour 9, green: LIN16 in 7577..7584. -/
theorem test_lin16_range : (lin16Low wsenc 9 .g, lin16High wsenc 9 .g) = (7577, 7584) := by decide +kernel

/-- `RefLin(5)` = -0.084434, +0.216946, +0.134128 to six decimals: 14217.56 and 8790.05 of 65535 rounded to two decimals, red
clamped to 0. -/
theorem test_reference_value :
    (refScaledFix wsenc 5 .r, (refScaledFix wsenc 5 .g * 1000 + 5 * fixOne) / (10 * fixOne),
        (refScaledFix wsenc 5 .b * 1000 + 5 * fixOne) / (10 * fixOne))
      = (0, 1421756, 879005) := by
  decide +kernel

/-- The configuration of V5.10 to V5.12: DARKEN = 1, one LED, a base colour of 8-bit codes. -/
def undarkened (r g b : Nat) : Config :=
  { wsenc with nLeds := 1, darken := ⟨1, 1⟩, baseR := ⟨r, 255⟩, baseG := ⟨g, 255⟩, baseB := ⟨b, 255⟩ }

/-- Every LIN16 of colour 0 the contract admits, smallest and largest, encodes to the base colour. -/
def roundTrips (r g b : Nat) : Bool :=
  let c := undarkened r g b
  [lin16Low c 0 .r, lin16High c 0 .r, lin16Low c 0 .g, lin16High c 0 .g, lin16Low c 0 .b, lin16High c 0 .b].map
    gammaEncode == [r, r, g, g, b, b]

/-- V5.10, V5.11 and, at its ends and its middle, V5.12. -/
theorem test_undarkened_round_trip :
    (roundTrips 200 100 50 && roundTrips 204 77 77 && roundTrips 0 0 0 && roundTrips 255 255 255
      && roundTrips 10 10 10 && roundTrips 255 0 0 && roundTrips 0 255 0 && roundTrips 0 0 1) = true := by
  decide +kernel

/-! ### Host operations (spec/95_test_vectors.md section 2.6) -/

/-- V6.1. -/
theorem test_reads_after_reset :
    [0x00, 0x01, 0x02, 0x03, 0x04, 0x05, 0x07, 0x0C].map (fun a => readValue a State.reset)
      = [some 0, some 2, some 0, some 0, some 0, some 0, some 0x1F00, some 0] := by
  decide

/-- V6.5 (fault 2 at an enable without a clock) and V6.7 (refused while halted). -/
theorem test_ctrlW_refused :
    field (step (writing 0x00 1 State.reset)) (fun t => (t.en, t.fault)) = some (false, ⟨2, 0, 0⟩)
    ∧ field (step (writing 0x00 1 { State.reset with clkValid := true, clkInt := 15, fault := ⟨2, 0, 0⟩ }))
        (fun t => (t.en, t.fault)) = some (false, ⟨2, 0, 0⟩) := by
  decide

/-- R135: EN set; and R211, V6.17: ENC's fault in the same cycle wins. -/
theorem test_ctrlW_enables :
    field (step (writing 0x00 0xFFFFFFFF { State.reset with clkValid := true, clkInt := 1 })) (·.en) = some true
    ∧ field (step (writing 0x00 1 (atWord 3 0x8000))) (fun t => (t.en, t.fault.code)) = some (false, 1) := by
  decide

/-- The end state of P1: STAT.R = 0x0000B102, and CTRL.R. -/
theorem test_statR_at_the_stall :
    readValue 0x01 { canonicalAt 1 with osrCount := 24, wsOe := true } = some 0x0000B102
    ∧ readValue 0x00 (canonicalAt 1) = some 1 := by
  decide

/-- V6.9: eight words queued: STAT = 0x00000081. -/
theorem test_statR_full : readValue 0x01 { State.reset with fifo := [1, 2, 3, 4, 5, 6, 7, 8] } = some 0x81 := by decide

/-- V6.16: DEBUG.W 0x1 in the cycle of a stalling OUT; V6.10: DEBUG.W 0x2. -/
theorem test_debugW :
    field (step (writing 0x02 1 (canonicalAt 1))) (·.dbg.txstall) = some true
    ∧ field (step (writing 0x02 2 { State.reset with dbg := ⟨true, true, true⟩ })) (·.dbg)
        = some ⟨true, false, true⟩ := by
  decide

/-- Reads of DEBUG (V6.11: 0x5), FAULT (R140: 0x80000501), SYSCLK, CLKDIV (R143: 0x000FA000), ADDR (R151: 1). -/
theorem test_register_reads :
    readValue 0x02 { State.reset with dbg := ⟨true, false, true⟩ } = some 5
    ∧ readValue 0x03 { State.reset with fault := ⟨1, 5, 0x8000⟩ } = some 0x80000501
    ∧ readValue 0x04 { State.reset with sysclk := 48000000 } = some 48000000
    ∧ readValue 0x05 { State.reset with clkInt := 15, clkFrac := 160 } = some 0x000FA000
    ∧ readValue 0x0C (canonicalAt 1) = some 1 := by
  decide

/-- V6.4: SYSCLK.W clears CLK_VALID and keeps the divider. -/
theorem test_sysclkW :
    field (step (writing 0x04 48000000 { State.reset with clkValid := true, clkInt := 15, clkFrac := 160 }))
      (fun t => (t.sysclk, t.clkValid, t.clkdivImage)) = some (48000000, false, 0x000FA000) := by
  decide

/-- V6.8: reserved bits of WRAP are dropped. -/
theorem test_wrapW_wrapR :
    field (step (writing 0x07 0xFFFFFFFF State.reset)) (·.wrapImage) = some 0x00001F1F
    ∧ readValue 0x07 (canonicalAt 1) = some 0x00000401 := by
  decide

/-- V6.11: locked writes while EN = 1 only set BUSYWR. -/
theorem test_locked_writes :
    [0x20, 0x07, 0x04, 0x06].all (fun a => decide
      (field (step (writing a 0 (canonicalAt 1)))
          (fun t => (t.imem, t.wrapTop, t.sysclk, t.clkInt, t.dbg.busywr))
        = some ((canonicalAt 1).imem, 4, 8000000, 1, true))) = true := by
  decide

/-- V6.9: the eighth word is queued, the ninth dropped with TXOVER. -/
theorem test_txfW :
    field (step (writing 0x08 0x341256AB { State.reset with fifo := [1, 2, 3, 4, 5, 6, 7] })) (·.fifo)
      = some [1, 2, 3, 4, 5, 6, 7, 0x341256AB]
    ∧ field (step (writing 0x08 9 { State.reset with fifo := [1, 2, 3, 4, 5, 6, 7, 8] }))
        (fun t => (t.fifo, t.dbg)) = some ([1, 2, 3, 4, 5, 6, 7, 8], ⟨false, true, false⟩) := by
  decide

/-- V6.14 and V6.15: a push and a pop in one cycle. -/
theorem test_push_and_pop :
    field (step (writing 0x08 9 { canonicalAt 1 with fifo := [7] })) (fun t => (t.osr, t.fifo)) = some (7, [9])
    ∧ field (step (writing 0x08 9 { canonicalAt 1 with fifo := [1, 2, 3, 4, 5, 6, 7, 8] }))
        (fun t => (t.osr, t.fifo, t.dbg.txover)) = some (1, [2, 3, 4, 5, 6, 7, 8], true) := by
  decide

/-- Section 2.4: PIXPUSH.W 0xFF123456 pushes 0x34125600. -/
theorem test_pixpushW :
    field (step (writing 0x09 0xFF123456 State.reset)) (·.fifo) = some [0x34125600] := by
  decide

/-- V6.2: the first CLAIM.R answers 1, the second 0; V6.13: a write to CLAIM does not claim. -/
theorem test_claimR :
    field (step (reading 0x0A State.reset)) (fun t => (t.hRdata, t.owned)) = some (some 1, true)
    ∧ field (step (reading 0x0A (canonicalAt 1))) (fun t => (t.hRdata, t.owned)) = some (some 0, true)
    ∧ field (step (writing 0x0A 1 State.reset)) (·.owned) = some false := by
  decide

/-- Section 2.5, PALGEN sequencing: accepted, and ignored with BUSYWR while busy. -/
theorem test_palgenW :
    field (step (writing 0x0B 0 State.reset)) (fun t => (t.palBusy, t.palDone)) = some (true, false)
    ∧ field (step (writing 0x0B 0 { State.reset with palBusy := true, palTimer := 5 }))
        (fun t => (t.palBusy, t.palTimer, t.dbg.busywr)) = some (true, 4, true) := by
  decide

/-- Section 2.5: in the last busy cycle PAL_DONE rises and PAL_BUSY falls. -/
theorem test_palgen_finishes :
    field (step { State.reset with palBusy := true, palTimer := 1 }) (fun t => (t.palBusy, t.palDone, t.palTimer))
      = some (false, true, 0) := by
  decide

/-- V6.18 and R152. -/
theorem test_imemW :
    field (step (writing 0x23 0xFFFF8000 { State.reset with imem := [(1, 0x6221), (3, 7), (4, 8)] })) (·.imem)
      = some [(1, 0x6221), (3, 0x8000), (4, 8)] := by
  decide

/-- R153 and V6.12: an entry in pixel register format, and the first address past the palette. -/
theorem test_palR :
    readValue 0x80 { State.reset with palDone := true, pal := [(0, 0xBD3F41)] } = some 0x00BD3F41
    ∧ readValue 0x8C { State.reset with palDone := true, pal := [(0, 0xBD3F41)] } = some 0 := by
  decide

/-- R225: in a cycle with rst_n = 0 the host access is ignored and the state is the reset state. -/
theorem test_reset_cycle :
    field (step { canonicalAt 1 with inputs := [⟨false, some ⟨false, 0x0A, 0⟩⟩] })
      (fun t => (t.en, t.owned, t.imem, t.wrapTop)) = some (false, false, [], 31) := by
  decide

/-! ### Another legal configuration (spec/00_scope.md R6) -/

/-- FIFO_DEPTH = 1 and N_LEDS = 1: one queued word is full (STAT bits 0, 4, 12 and 13, by R17), the second push is
dropped (R47), and 0x81 is reserved (R45). -/
theorem test_other_fifo_and_palette :
    readValue 0x01 { otherAt 3 with en := false, fifo := [7] } = some 0x3011
    ∧ field (step (writing 0x08 9 { otherAt 3 with en := false, fifo := [7] })) (fun t => (t.fifo, t.dbg.txover))
        = some ([7], true)
    ∧ readValue 0x80 { otherAt 3 with palDone := true, pal := [(0, 0xBD3F41)] } = some 0x00BD3F41
    ∧ readValue 0x81 { otherAt 3 with palDone := true, pal := [(0, 0xBD3F41)] } = some 0 := by
  decide

/-- R111 at CYCLES_PER_BIT = 48: 125 000 * 256 / 38 400 = 833 = 3 * 256 + 65; and a reset keeps the parameters. -/
theorem test_other_clkcfg_and_reset :
    field (step (writing 0x06 0 { State.resetOf { wsenc with t1 := 16, t2 := 16, t3 := 16 } with sysclk := 125000000 }))
        (fun t => (t.clkInt, t.clkFrac, t.clkValid)) = some (3, 65, true)
    ∧ field (step { otherAt 3 with inputs := [⟨false, none⟩] }) (fun t => (t.config.t3, t.config.fifoDepth, t.osrCount))
      = some (4, 1, 32) := by
  decide

/-! ### A table word as the first instruction after reset -/

/-- `withFetchWord` runs `set pindirs, 1`, `out x, 1` and a host write in the very next step. -/
theorem test_withFetchWord :
    field (step (State.reset.withFetchWord 16 0xE081)) (fun t => (t.wsOe, t.pc)) = some (true, 1)
    ∧ field (step (State.reset.withFetchWord 16 0x6221)) (fun t => (t.pc, t.dbg.txstall)) = some (0, true)
    ∧ field (step (State.reset.withFetchWord 41 (0x108 + 5 * 2 ^ 9))) (·.fifo) = some [5] := by
  decide

/-! ### Witnesses: the hypotheses of the claims can be met

One theorem for each claim that has hypotheses, with a state and operands that meet all hypotheses of each of its
clauses, at a boundary of the range where there is one. -/

theorem test_witness_DecodeOfEncode :
    (Instr.palR 11).wellFormed wsenc = true ∧ (Instr.palR 0).wellFormed other = true
    ∧ (Instr.jmp true 15 31).wellFormed wsenc = true
    ∧ (Instr.imemW 31 0xFFFFFFFF).wellFormed wsenc = true := by
  decide

theorem test_witness_EncodeOfDecode :
    decodeMicro 0x1F3F = .ok (.jmpNotX true 15 31) ∧ decodeAccess wsenc ⟨false, 0x8B, 5⟩ = .ok (.palR 11) := by
  decide

/-- Every reason of R68, each at a word next to a legal one. -/
theorem test_witness_ReservedWordsAreIllegal :
    [0x2000#16, 0x4000#16, 0x8000#16, 0xC000#16, 0x0040#16, 0x6022#16, 0xA043#16, 0xE082#16].all
      (fun w => decide (decodeMicro w = .error .illegalWord)) = true := by
  decide

theorem test_witness_RefillTakesWaitingWord :
    (State.reset).osrCount.toNat ≤ 32 ∧ ({ State.reset with osrCount := 23, fifo := [1] }).osrCount.toNat ≤ 32 := by
  decide

/-- X = 0, X = 1, and X unwritten. -/
theorem test_witness_JmpNotXTestsX :
    (let s := { State.reset with xWritten := true }; s.xWritten = true ∧ s.x = false)
    ∧ (let s := { State.reset with xWritten := true, x := true }; s.xWritten = true ∧ s.x = true)
    ∧ State.reset.xWritten = false := by
  decide

theorem test_witness_OutShiftsOrStalls :
    (let s := { State.reset with osrCount := 23 }; s.config.legal = true ∧ s.osrCount.toNat < s.config.pullThresh)
    ∧ (let s := { State.reset with osrCount := 24 }; s.config.pullThresh ≤ s.osrCount.toNat) :=
  ⟨⟨wsenc_legal, by decide⟩, by decide⟩

theorem test_witness_DelayTickCountsDown : ({ State.reset with delayCtr := 1 }).delayCtr ≠ 0 := by decide

theorem test_witness_IllegalFetchEntersFaultOne :
    (atWord 3 0x8000).delayCtr = 0 ∧ decodeMicro (atWord 3 0x8000).fetchWord = .error .illegalWord := by
  decide

theorem canonicalAt_canonical (pc : BitVec 5) : (canonicalAt pc).Canonical := by
  refine ⟨?_, rfl, rfl⟩
  show ∀ i : Fin 5, Memory.read (canonicalAt 0).imem i = (canonicalProgram wsenc.t1 wsenc.t2 wsenc.t3)[i]?
  decide

theorem otherAt_canonical (pc : BitVec 5) : (otherAt pc).Canonical := by
  refine ⟨?_, rfl, rfl⟩
  show ∀ i : Fin 5, Memory.read (otherAt 0).imem i = (canonicalProgram other.t1 other.t2 other.t3)[i]?
  decide

/-- With this hardware's parameters and with those of P8. -/
theorem test_witness_OneBitCellOnThePin :
    (let s := { canonicalAt 1 with osrCount := 23, osr := 0x80000000 }
     s.config.legal = true ∧ s.AtOut ∧ s.osrCount.toNat < s.config.pullThresh)
    ∧ (let s := { otherAt 1 with osrCount := 0, osr := 0xA0000000 }
       s.config.legal = true ∧ s.AtOut ∧ s.osrCount.toNat < s.config.pullThresh) :=
  ⟨⟨wsenc_legal, ⟨canonicalAt_canonical 1, rfl, rfl⟩, by decide⟩,
   ⟨other_legal, ⟨otherAt_canonical 1, rfl, rfl⟩, by decide⟩⟩

theorem test_witness_QueuedWordsOnTheWire :
    let s := { canonicalAt 1 with osrCount := 0, osr := 0xFF000000, fifo := [0x0000FF00] }
    s.config.legal = true ∧ s.AtOut ∧ s.osrCount = 0 :=
  ⟨wsenc_legal, ⟨canonicalAt_canonical 1, rfl, rfl⟩, by decide⟩

theorem test_witness_StallHoldsLowAndEndsByItself :
    (let s := { canonicalAt 1 with osrCount := 24 }
     s.config.legal = true ∧ s.AtOut ∧ s.en = true ∧ s.config.pullThresh ≤ s.osrCount.toNat ∧ s.fifo = [])
    ∧ (let s := { otherAt 1 with osrCount := 32, fifo := [7] }
       s.config.legal = true ∧ s.AtOut ∧ s.en = true ∧ s.config.pullThresh ≤ s.osrCount.toNat ∧ s.fifo = 7 :: []) :=
  ⟨⟨wsenc_legal, ⟨canonicalAt_canonical 1, rfl, rfl⟩, rfl, by decide, rfl⟩,
   ⟨other_legal, ⟨otherAt_canonical 1, rfl, rfl⟩, rfl, by decide, rfl⟩⟩

theorem test_witness_CanonicalProgramNeverFaults :
    let s := writing 0x08 7 (otherAt 4)
    s.config.legal = true ∧ s.Canonical ∧ s.pc.toNat ≤ 4 ∧ s.en = true ∧ s.clkValid = true ∧ s.fault.code = 0 ∧ NoReset s
      ∧ ∃ t, step s = .next t :=
  ⟨other_legal, otherAt_canonical 4, by decide, rfl, rfl, by decide, rfl, _, rfl⟩

theorem test_witness_CtrlWriteCases :
    (0 : Word).getLsbD 0 = false
    ∧ (let s := { State.reset with fault := ⟨1, 0, 0x8000⟩ }; (1 : Word).getLsbD 0 = true ∧ s.fault.code ≠ 0)
    ∧ (let s := State.reset; (1 : Word).getLsbD 0 = true ∧ s.fault.code = 0 ∧ s.clkValid = false)
    ∧ (let s := { State.reset with clkValid := true }
       (1 : Word).getLsbD 0 = true ∧ s.fault.code = 0 ∧ s.clkValid = true)
    ∧ (let s := writing 0x00 0 (canonicalAt 3)
       s.nextPort = ⟨true, some ⟨true, 0x00, 0⟩⟩ ∧ InTick s ∧ ∃ e, encTick { started s with en := false } = .next e)
    ∧ (let s := writing 0x00 1 (atWord 3 0x8000)
       s.nextPort = ⟨true, some ⟨true, 0x00, 1⟩⟩ ∧ InTick s ∧ s.delayCtr = 0
         ∧ decodeMicro s.fetchWord = .error .illegalWord ∧ ∃ t, step s = .next t) :=
  ⟨by decide, by decide, by decide, by decide, ⟨rfl, ⟨rfl, by decide⟩, _, rfl⟩,
   ⟨rfl, ⟨rfl, by decide⟩, rfl, by decide, _, rfl⟩⟩

theorem test_witness_StatReadAnswersStatusFields :
    (let s := { State.reset with fifo := [1, 2, 3, 4, 5, 6, 7, 8] }
     s.config.legal = true ∧ s.fifo.length ≤ s.config.fifoDepth)
    ∧ (let s := { otherAt 1 with fifo := [1] }; s.config.legal = true ∧ s.fifo.length ≤ s.config.fifoDepth) :=
  ⟨⟨wsenc_legal, by decide⟩, ⟨other_legal, by decide⟩⟩

theorem test_witness_DebugWriteClearsUnlessSet :
    let s := writing 0x02 1 (canonicalAt 1)
    s.nextPort = ⟨true, some ⟨true, 0x02#8, 1⟩⟩ ∧ InTick s ∧ s.delayCtr = 0
      ∧ decodeMicro s.fetchWord = .ok (.outX false 2) ∧ s.config.pullThresh ≤ s.osrCount.toNat ∧ s.fifo = [] :=
  ⟨rfl, ⟨rfl, by decide⟩, rfl, by decide, by decide, rfl⟩

theorem test_witness_SysclkWriteClearsValid : State.reset.en = false ∧ running.en = true := ⟨rfl, rfl⟩

/-- The lowest usable clock, and the clock 1 Hz below it. -/
theorem test_witness_ClkcfgComputesDivider :
    (let s := { State.reset with sysclk := 8000000 }
     let q := s.sysclk.toNat / 1000 * 256 / (s.config.targetKhz * (s.config.t1 + s.config.t2 + s.config.t3))
     s.en = false ∧ 256 ≤ q ∧ q < 2 ^ 24)
    ∧ (let s := { State.reset with sysclk := 7999999 }
       let q := s.sysclk.toNat / 1000 * 256 / (s.config.targetKhz * (s.config.t1 + s.config.t2 + s.config.t3))
       s.en = false ∧ ¬ (256 ≤ q ∧ q < 2 ^ 24))
    ∧ running.en = true := by
  decide

theorem test_witness_WrapWriteStoresBounds :
    ({ State.reset with fault := ⟨2, 0, 0⟩ }).en = false ∧ running.en = true := ⟨rfl, rfl⟩

theorem test_witness_TxfPushesOrDrops :
    (let s := { State.reset with fifo := [1, 2, 3, 4, 5, 6, 7] }; s.fifo.length < s.config.fifoDepth)
    ∧ (let s := { State.reset with fifo := [1, 2, 3, 4, 5, 6, 7, 8] }; s.config.fifoDepth ≤ s.fifo.length)
    ∧ (let s := { otherAt 1 with fifo := [1] }; s.config.fifoDepth ≤ s.fifo.length) := by
  decide

theorem test_witness_PixpushPacksThenPushes :
    (let s := { running with fifo := [1, 2, 3, 4, 5, 6, 7] }; s.fifo.length < s.config.fifoDepth)
    ∧ (let s := { running with fifo := [1, 2, 3, 4, 5, 6, 7, 8] }; s.config.fifoDepth ≤ s.fifo.length) := by
  decide

theorem test_witness_ClaimReadTestsAndSets :
    (State.reset.owned = false ∧ running.owned = true)
    ∧ (let s := { canonicalAt 3 with inputs := [⟨false, none⟩] }; s.nextPort.rstN = false ∧ ∃ t, step s = .next t)
    ∧ (let s := reading 0x0A State.reset; NoReset s ∧ (∃ t, step s = .next t) ∧ s.owned = false)
    ∧ (let s := reading 0x0A (canonicalAt 1); NoReset s ∧ (∃ t, step s = .next t) ∧ s.owned = true) :=
  ⟨⟨rfl, rfl⟩, ⟨rfl, _, rfl⟩, ⟨rfl, ⟨_, rfl⟩, rfl⟩, ⟨rfl, ⟨_, rfl⟩, rfl⟩⟩

theorem test_witness_PalgenWriteStarts :
    running.palBusy = false ∧ ({ running with palBusy := true, palTimer := 1 }).palBusy = true := ⟨rfl, rfl⟩

/-- A PALGEN right after reset, cycle by cycle. -/
def palgenRun : Nat → State
  | 0 => { State.reset with inputs := [⟨true, some ⟨true, 0x0B, 0⟩⟩] }
  | n + 1 =>
    if n < wsenc.palLatency then { State.reset with palBusy := true, palTimer := wsenc.palLatency - n }
    else { State.reset with palDone := true, pal := paletteOf wsenc }

theorem test_witness_PalgenFinishesAfterLatency :
    IsRun palgenRun ∧ (∀ n, NoReset (palgenRun n)) ∧ (palgenRun 0).config.legal = true
      ∧ (palgenRun 0).palBusy = false
      ∧ (palgenRun 0).nextPort.access = some ⟨true, 0x0B#8, 0⟩ := by
  have hpos : 0 < wsenc.palLatency := Nat.succ_pos _
  refine ⟨fun n => ?_, fun n => ?_, wsenc_legal, rfl, rfl⟩
  · cases n with
    | zero => simp only [palgenRun, hpos, if_true]; rfl
    | succ n =>
      by_cases h : n < wsenc.palLatency
      · by_cases h1 : n + 1 < wsenc.palLatency
        · have h2 : 1 < wsenc.palLatency - n := by omega
          have h3 : wsenc.palLatency - n - 1 = wsenc.palLatency - (n + 1) := by omega
          simp only [palgenRun, h, h1, if_true]
          simp [step, cycle, State.nextPort, State.openCycle, PortCycle.idle, State.reset, State.resetOf, runCycle, hostCycle, andThen,
            encCycle, State.isTick, tickNow, encView, closeCycle, pushedWords, State.tickgenAcc, nextAcc,
            State.colorStep, h2, h3]
        · have h2 : ¬ 1 < wsenc.palLatency - n := by omega
          simp only [palgenRun, h, h1, if_true, if_false]
          simp [step, cycle, State.nextPort, State.openCycle, PortCycle.idle, State.reset, State.resetOf, runCycle, hostCycle, andThen,
            encCycle, State.isTick, tickNow, encView, closeCycle, pushedWords, State.tickgenAcc, nextAcc,
            State.colorStep, h2]
      · have h1 : ¬ n + 1 < wsenc.palLatency := by omega
        simp only [palgenRun, h, h1, if_false]
        rfl
  · cases n with
    | zero => rfl
    | succ n => simp only [palgenRun]; split <;> rfl

theorem test_witness_ImemWriteStoresOneWord :
    ({ State.reset with imem := [(31, 0xA042)] }).en = false ∧ (30 : Nat) ≠ (31 : BitVec 5).toNat
    ∧ running.en = true := by
  decide

/-- The last entry, with PAL_DONE = 1 and 0; N_LEDS of `other` is 1. -/
theorem test_witness_PalReadAnswersEntry :
    ((11 : BitVec 7).toNat < State.reset.config.nLeds ∧ (0 : BitVec 7).toNat < (otherAt 0).config.nLeds)
    ∧ (let s := { State.reset with palDone := true, pal := [(11, 0xBD3770)] }
       s.palDone = true ∧ s.pal.read (11 : BitVec 7).toNat = some 0xBD3770)
    ∧ State.reset.palDone = false := by
  decide

theorem test_witness_LockedWritesOnlySetBusywr :
    running.en = true ∧ ({ running with palBusy := true, palTimer := 1 }).palBusy = true := by
  decide

/-- Both ends of every address range, with N_LEDS = 12. -/
theorem test_witness_OtherAccessesAreHarmless :
    [0x06, 0x08, 0x09, 0x0B, 0x0D, 0x7F, 0x8C, 0xFF].all (fun n : Nat => decide
      (n = 0x06 ∨ n = 0x08 ∨ n = 0x09 ∨ n = 0x0B ∨ (0x0D ≤ n ∧ n < 0x80) ∨ 0x80 + State.reset.config.nLeds ≤ n)) = true
    ∧ [0x01, 0x03, 0x05, 0x0A, 0x0C, 0x1F, 0x40, 0xFF].all (fun n : Nat => decide
      (n = 0x01 ∨ n = 0x03 ∨ n = 0x05 ∨ n = 0x0A ∨ (0x0C ≤ n ∧ n < 0x20) ∨ 0x40 ≤ n)) = true := by
  decide

/-- A reset; no tick, with no access and with one that is refused; a delay tick, a tick that fetches a reserved word and
an instruction tick beside a push. -/
theorem test_witness_StepRunsDecodedOperations :
    (let s := { canonicalAt 3 with inputs := [⟨false, none⟩] }; s.nextPort.rstN = false)
    ∧ (let s := State.reset
       NoReset s ∧ ¬ InTick s ∧ ∃ h, hostCycle s.nextPort.access (started s) = .next h)
    ∧ (let s := reading 0x06 { canonicalAt 3 with acc := 256 }
       NoReset s ∧ ¬ InTick s ∧ isInstr (decodeAccess wsenc ⟨false, 0x06, 0⟩) = false
         ∧ ∃ h, hostCycle s.nextPort.access (started s) = .next h)
    ∧ (let s := { canonicalAt 3 with delayCtr := 15 }
       NoReset s ∧ InTick s ∧ hostCycle s.nextPort.access (started s) = .next (started s)
         ∧ ∃ e, encTick { started s with fifo := s.fifo } = .next e)
    ∧ (let s := atWord 3 0x8000
       NoReset s ∧ InTick s ∧ decodeMicro s.fetchWord = .error .illegalWord
         ∧ hostCycle s.nextPort.access (started s) = .next (started s)
         ∧ ∃ e, encTick { started s with fifo := s.fifo } = .next e)
    ∧ (let s := writing 0x08 9 (canonicalAt 3)
       NoReset s ∧ InTick s ∧ s.delayCtr = 0 ∧ decodeAccess wsenc ⟨true, 0x08, 9⟩ = .ok (.txfW 9)
         ∧ decodeMicro s.fetchWord = .ok (.jmp true 4 1)
         ∧ ∃ h e, hostCycle s.nextPort.access (started s) = .next h
             ∧ encTick { h with fifo := s.fifo } = .next e) :=
  ⟨rfl, ⟨rfl, fun h => absurd h.1 (by decide), _, rfl⟩, ⟨rfl, fun h => absurd h.2 (by decide), by decide, _, rfl⟩,
   ⟨rfl, ⟨rfl, by decide⟩, rfl, _, rfl⟩, ⟨rfl, ⟨rfl, by decide⟩, by decide, rfl, _, rfl⟩,
   ⟨rfl, ⟨rfl, by decide⟩, rfl, by decide, by decide, _, _, rfl, rfl⟩⟩

/-- A cycle in which a word leaves and a word is appended. -/
theorem test_witness_FifoKeepsOrder :
    let s := writing 0x08 9 { canonicalAt 1 with fifo := [7] }
    NoReset s ∧ (∃ t, step s = .next t) ∧ field (step s) (·.fifo) = some [9] :=
  ⟨rfl, ⟨_, rfl⟩, by decide⟩

/-- TXF into a FIFO one word short of full, PIXPUSH into a full one, each with a pop, and TXF into an empty one. -/
theorem test_witness_PushAndPopInOneCycle :
    (let s := writing 0x08 9 { canonicalAt 1 with delayCtr := 2, osrCount := 24, fifo := [1, 2, 3, 4, 5, 6, 7] }
     s.nextPort = ⟨true, some ⟨true, 0x08, 9⟩⟩ ∧ decodeAccess wsenc ⟨true, 0x08, 9⟩ = .ok (.txfW 9) ∧ InTick s
       ∧ (∃ e, encTick (started s) = .next e) ∧ s.fifo.length < s.config.fifoDepth)
    ∧ (let s := writing 0x09 9 { canonicalAt 1 with osrCount := 24, fifo := [1, 2, 3, 4, 5, 6, 7, 8] }
       s.nextPort = ⟨true, some ⟨true, 0x09, 9⟩⟩ ∧ decodeAccess wsenc ⟨true, 0x09, 9⟩ = .ok (.pixpushW 9) ∧ InTick s
         ∧ (∃ e, encTick (started s) = .next e) ∧ s.config.fifoDepth ≤ s.fifo.length)
    ∧ (let s := writing 0x08 9 (canonicalAt 1)
       s.nextPort = ⟨true, some ⟨true, 0x08, 9⟩⟩ ∧ decodeAccess wsenc ⟨true, 0x08, 9⟩ = .ok (.txfW 9) ∧ InTick s
         ∧ (∃ e, encTick (started s) = .next e) ∧ s.fifo = []) :=
  ⟨⟨rfl, by decide, ⟨rfl, by decide⟩, ⟨_, rfl⟩, by decide⟩, ⟨rfl, by decide, ⟨rfl, by decide⟩, ⟨_, rfl⟩, by decide⟩,
   ⟨rfl, by decide, ⟨rfl, by decide⟩, ⟨_, rfl⟩, rfl⟩⟩

theorem test_witness_SameCycleEventsAreOrdered :
    (let s := writing 0x00 1 (canonicalAt 3)
     s.en = true ∧ s.clkValid = true ∧ s.fault.code = 0 ∧ ∃ h, hostCycle s.nextPort.access (started s) = .next h)
    ∧ (let s := writing 0x00 1 (atWord 3 0x8000)
       NoReset s ∧ InTick s ∧ s.clkValid = true ∧ s.fault.code = 0 ∧ s.delayCtr = 0
         ∧ decodeMicro s.fetchWord = .error .illegalWord ∧ ∃ t, step s = .next t) :=
  ⟨⟨rfl, rfl, by decide, _, rfl⟩, ⟨rfl, ⟨rfl, by decide⟩, rfl, by decide, rfl, by decide, _, rfl⟩⟩

theorem test_witness_ResetCycleResetsEverything :
    ({ canonicalAt 3 with inputs := [⟨false, none⟩] }).nextPort.rstN = false := rfl

/-- A cycle between two ticks, and a cycle with EN = 0. -/
theorem test_witness_NoTickFreezesEnc :
    (let s := { canonicalAt 3 with acc := 256 }; NoReset s ∧ ¬ InTick s ∧ ∃ t, step s = .next t)
    ∧ (let s := State.reset; NoReset s ∧ ¬ InTick s ∧ (∃ t, step s = .next t) ∧ s.en = false) :=
  ⟨⟨rfl, fun h => absurd h.2 (by decide), _, rfl⟩, ⟨rfl, fun h => absurd h.1 (by decide), ⟨_, rfl⟩, rfl⟩⟩

/-- EN = 0, a tick at the smallest Q, and the last cycle before the next tick. -/
theorem test_witness_TickgenStepsAccumulator :
    (let s := State.reset; NoReset s ∧ (∃ t, step s = .next t) ∧ s.en = false)
    ∧ (let s := atWord 0 0x0000
       NoReset s ∧ (∃ t, step s = .next t) ∧ s.en = true ∧ 256 ≤ s.clkInt.toNat * 256 + s.clkFrac.toNat
         ∧ s.acc.toNat < s.clkInt.toNat * 256 + s.clkFrac.toNat ∧ s.acc.toNat < 256)
    ∧ (let s := { atWord 0 0x0000 with clkInt := 15, clkFrac := 160, acc := 256 }
       NoReset s ∧ (∃ t, step s = .next t) ∧ s.en = true ∧ 256 ≤ s.clkInt.toNat * 256 + s.clkFrac.toNat
         ∧ s.acc.toNat < s.clkInt.toNat * 256 + s.clkFrac.toNat ∧ 256 ≤ s.acc.toNat) :=
  ⟨⟨rfl, ⟨_, rfl⟩, rfl⟩, ⟨rfl, ⟨_, rfl⟩, rfl, by decide, by decide, by decide⟩,
   ⟨rfl, ⟨_, rfl⟩, rfl, by decide, by decide, by decide⟩⟩

/-- One instruction, `jmp 0`, at one tick per cycle: every cycle after the CTRL.W is like the one before. -/
theorem test_witness_TicksAreFloorMultiples :
    let run : Nat → State := fun _ => atWord 0 0x0000
    let before := writing 0x00 1 { atWord 0 0x0000 with en := false }
    before.en = false ∧ step before = .next (run 0) ∧ IsRun run ∧ (∀ n, (run n).en = true)
      ∧ 256 ≤ (run 0).clkInt.toNat * 256 + (run 0).clkFrac.toNat :=
  ⟨rfl, rfl, fun _ => (rfl : step (atWord 0 0x0000) = .next (atWord 0 0x0000)), fun _ => rfl, by decide⟩

/-- The canonical program at its `OUT X, 1`, with a push on the host port. -/
theorem test_witness_StepKeepsInvariant :
    let s := writing 0x08 9 (canonicalAt 1)
    s.Inv ∧ ∃ t, step s = .next t := by
  refine ⟨?_, _, rfl⟩
  constructor <;> first | exact wsenc_legal | decide

theorem test_witness_EnabledImpliesClockAndNoFault :
    let s := canonicalAt 1
    (s.en = true → s.clkValid = true ∧ s.fault.code = 0) ∧ ∃ t, step s = .next t :=
  ⟨fun _ => ⟨rfl, by decide⟩, _, rfl⟩

theorem test_witness_FaultEntryHaltsTheEncoder :
    (1 : BitVec 4) ≠ 0 ∧ (let t := (canonicalAt 3).raiseFault 1 3 0x8000; NoReset t ∧ ∃ u, step t = .next u) :=
  ⟨by decide, rfl, _, rfl⟩

theorem test_witness_FaultIsPermanent :
    let s := writing 0x00 1 { canonicalAt 3 with en := false, fault := ⟨1, 3, 0x8000⟩ }
    s.fault.code ≠ 0 ∧ s.en = false ∧ s.wsOut = false ∧ NoReset s ∧ ∃ t, step s = .next t :=
  ⟨by decide, rfl, rfl, rfl, _, rfl⟩

theorem test_witness_XWrittenOnlyByOut :
    let s := { canonicalAt 1 with osr := 0x80000000, osrCount := 23 }
    NoReset s ∧ (∃ t, step s = .next t) ∧ field (step s) (fun t => (t.x, t.xWritten)) = some (true, true)
      ∧ (s.x, s.xWritten) = (false, false) :=
  ⟨rfl, ⟨_, rfl⟩, by decide, rfl⟩

theorem test_witness_PinDirectionOnlyBySetPindirs :
    let s := canonicalAt 0
    NoReset s ∧ (∃ t, step s = .next t) ∧ field (step s) (·.wsOe) = some true ∧ s.wsOe = false :=
  ⟨rfl, ⟨_, rfl⟩, by decide, rfl⟩

theorem test_witness_DividerChangesOnlyByConfigurator :
    let s := writing 0x06 0 { State.reset with sysclk := 125000000 }
    NoReset s ∧ (∃ t, step s = .next t)
      ∧ field (step s) (fun t => (t.clkInt, t.clkFrac, t.clkValid)) = some (15, 160, true)
      ∧ (s.clkInt, s.clkFrac, s.clkValid) = (0, 0, false) :=
  ⟨rfl, ⟨_, rfl⟩, by decide, rfl⟩

theorem test_witness_ProgramFixedWhileEnabled :
    let s := writing 0x20 0 (canonicalAt 1)
    NoReset s ∧ s.en = true ∧ ∃ t, step s = .next t :=
  ⟨rfl, rfl, _, rfl⟩

/-- The parameters of this hardware are legal, at the smallest and the largest SYSCLK. -/
theorem test_witness_DividerIsAccurate : wsenc.legal = true ∧ (0 : Nat) < 2 ^ 32 ∧ (4294967295 : Nat) < 2 ^ 32 :=
  ⟨wsenc_legal, by decide, by decide⟩

theorem test_witness_ResetStateFromOutside : wsenc.legal = true ∧ other.legal = true := ⟨wsenc_legal, other_legal⟩

theorem test_witness_ResetHasInvariant : wsenc.legal = true ∧ other.legal = true := ⟨wsenc_legal, other_legal⟩

theorem test_witness_GammaEncodeIsLargestCode :
    (0 : Nat) ≤ 65535 ∧ (7582 : Nat) ≤ 7583 ∧ (255 : Nat) ≤ 255 := by
  decide

theorem test_witness_GammaLutFromTransferFunction : (1 : Nat) ≤ 1 ∧ (1 : Nat) ≤ 255 ∧ (255 : Nat) ≤ 255 := by decide

theorem test_witness_Lin16WithinColorEps : 0 < wsenc.nLeds ∧ 11 < wsenc.nLeds := by decide

/-- Every colour of the first clause but 9, and the first index past the palette. -/
theorem test_witness_DefaultPalettePixels :
    ((0 : Nat) < 12 ∧ (0 : Nat) ≠ 9) ∧ ((11 : Nat) < 12 ∧ (11 : Nat) ≠ 9) ∧ (12 : Nat) ≤ 12 := by
  decide

theorem test_witness_HueRotationCloses : 1 ≤ wsenc.nLeds ∧ 10 + 1 < wsenc.nLeds := by decide

/-- The value next below the reference is admitted. -/
theorem linAdmitted_floor (c : Config) (k : ℕ) (ch : Channel) (h : 1 ≤ c.colorEps) :
    LinAdmitted c k ch ⌊65535 * refClamped c k ch⌋₊ := by
  have h0 : 0 ≤ refClamped c k ch := le_max_left _ _
  have h1 : refClamped c k ch ≤ 1 := max_le zero_le_one (min_le_left _ _)
  have low := Nat.floor_le (a := 65535 * refClamped c k ch) (by linarith)
  have high := Nat.lt_floor_add_one (65535 * refClamped c k ch)
  have heps : (1 : ℝ) ≤ c.colorEps := by exact_mod_cast h
  refine ⟨Nat.floor_le_of_le (by push_cast; linarith), abs_le.mpr ⟨by linarith, by linarith⟩⟩

/-- V5.10. -/
theorem test_witness_UndarkenedBaseRoundTrips :
    let c := undarkened 200 100 50
    let p : Pixel := ⟨200, 100, 50⟩
    c.darken.num = c.darken.den ∧ 0 < c.darken.den ∧ c.legal = true ∧ c.baseR.isCode p.r ∧ c.baseG.isCode p.g
      ∧ c.baseB.isCode p.b ∧ ∃ lin : Channel → Nat, ∀ ch, LinAdmitted c 0 ch (lin ch) := by
  refine ⟨rfl, by decide, ?_, rfl, rfl, rfl, _, fun ch => linAdmitted_floor _ 0 ch (by decide)⟩
  simp [Config.legal, undarkened, wsenc, Config.fracInUnit]

end Sys2Proof.Tests
end

section
/-! PROOFS. The statements of spec/20_memory.md: the order of the FIFO, and a push and a pop in one cycle. -/

namespace Sys2Proof.Machine

/-! ### What the commit of a cycle keeps of ENC's part -/

@[simp] theorem closeCycle_fifo (s h e : State) : (closeCycle s h e).fifo = e.fifo ++ pushedWords s h := by
  rw [closeCycle_eq]

@[simp] theorem closeCycle_osr (s h e : State) : (closeCycle s h e).osr = e.osr := by
  rw [closeCycle_eq]

@[simp] theorem closeCycle_osrCount (s h e : State) : (closeCycle s h e).osrCount = e.osrCount := by
  rw [closeCycle_eq]

@[simp] theorem closeCycle_dbg (s h e : State) : (closeCycle s h e).dbg = e.dbg := by
  rw [closeCycle_eq]

/-! ### A push in the cycle of a tick -/

theorem encCycle_of_isTick {start : State} (h : start.isTick = true) (host : State) :
    encCycle start host = encTick (encView start host) := if_pos h

/-- TXF.W and PIXPUSH.W are both a push (R47). -/
theorem hostCycle_push {s : State} {a : HostAccess} {w : Word}
    (h : decodeAccess s.config a = .ok (.txfW w)
      ∨ ∃ v, decodeAccess s.config a = .ok (.pixpushW v) ∧ w = pack (pixelOfRegister v)) :
    hostCycle (some a) s = .next (s.fifoPush w) := by
  obtain h | ⟨v, h, rfl⟩ := h
  · simp only [hostCycle, h, exec_txfW]
  · simp only [hostCycle, h, exec_pixpushW]

theorem encView_fifoPush_of_room {s : State} (h : s.fifo.length < s.config.fifoDepth) (w : Word) :
    encView s (s.fifoPush w) = s := by
  rw [State.fifoPush_of_room h]; rfl

theorem encView_fifoPush_of_full {s : State} (h : s.config.fifoDepth ≤ s.fifo.length) (w : Word) :
    encView s (s.fifoPush w) = s.withTxover := by
  rw [State.fifoPush_of_full h]; rfl

theorem pushedWords_fifoPush_of_room {s : State} (h : s.fifo.length < s.config.fifoDepth) (w : Word) :
    pushedWords s (s.fifoPush w) = [w] := by
  rw [State.fifoPush_of_room h]
  exact pushedWords_of_append rfl

theorem pushedWords_fifoPush_of_full {s : State} (h : s.config.fifoDepth ≤ s.fifo.length) (w : Word) :
    pushedWords s (s.fifoPush w) = [] := by
  rw [State.fifoPush_of_full h]
  exact pushedWords_of_append (List.append_nil _).symm

/-- A push beside a tick, said once: ENC's tick runs on what the push leaves, seen with the start-of-cycle FIFO. -/
theorem step_of_push_in_tick {s e : State} {a : HostAccess} {w : Word} (hport : s.nextPort = ⟨true, some a⟩)
    (hpush : hostCycle (some a) s.openCycle = .next (s.openCycle.fifoPush w)) (htick : s.isTick = true)
    (he : encTick (encView s.openCycle (s.openCycle.fifoPush w)) = .next e) :
    step s = .next (closeCycle s.openCycle (s.openCycle.fifoPush w) e) := by
  have henc := (encCycle_of_isTick (start := s.openCycle) htick (s.openCycle.fifoPush w)).trans he
  exact step_of_cycle (by rw [hport]) (by rw [hport]; exact hpush) henc

end Sys2Proof.Machine

namespace Sys2Proof.Claims

open Sys2Proof.Machine

theorem isTick_iff_inTick (s : State) : s.isTick = true ↔ InTick s := by
  simp only [State.isTick, tickNow, InTick, Bool.and_eq_true, decide_eq_true_eq]

/-- Settles O35: the host appends at most one word (`HostEffect`), and only ENC's tick takes one off, the oldest, into
the OSR (`EncEffect`). -/
theorem fifoKeepsOrder : Obligations.FifoKeepsOrder := by
  intro s t hr hstep
  obtain ⟨hs, e, pushed, -, -, -, hlen, hroom, henc, rfl, hpushed⟩ := step_effect hr hstep
  have hfifo : e.fifo = s.fifo ∨ (InTick s ∧ s.fifo = e.osr :: e.fifo ∧ e.osrCount = 0) := by
    obtain ⟨htick, -, eff⟩ | ⟨-, rfl⟩ := henc
    · exact eff.fifo.imp_right fun hpop => ⟨(isTick_iff_inTick s).mp htick, hpop⟩
    · exact .inl rfl
  refine ⟨e.fifo, pushed, by rw [closeCycle_fifo, hpushed], ?_⟩
  obtain hkept | ⟨hin, hpop, hcount⟩ := hfifo
  · exact ⟨.inl hkept, hlen, hroom, fun hne => absurd hkept hne⟩
  · refine ⟨.inr ⟨by simp [hpop], by simp [hpop]⟩, hlen, hroom, fun _ => ⟨hin, ?_, ?_⟩⟩
    · rw [closeCycle_osr, hpop, List.headD_cons]
    · rw [closeCycle_osrCount, hcount]

/-- Settles O36: with room the push leaves ENC's tick the start-of-cycle state itself; with a full FIFO it leaves that
state with TXOVER set, which the tick neither reads nor writes. -/
theorem pushAndPopInOneCycle : Obligations.PushAndPopInOneCycle := by
  intro s e a w hport hdec hin he
  refine ⟨(encTick_effect he).fifo, ?_⟩
  have htick := (isTick_iff_inTick s).mpr hin
  have hpush : hostCycle (some a) s.openCycle = .next (s.openCycle.fifoPush w) := hostCycle_push hdec
  by_cases hroom : s.openCycle.fifo.length < s.openCycle.config.fifoDepth
  · have hstep := step_of_push_in_tick hport hpush htick (by rw [encView_fifoPush_of_room hroom]; exact he)
    refine ⟨_, hstep, closeCycle_osr .., closeCycle_osrCount .., fun _ => ⟨?_, closeCycle_dbg ..⟩,
      fun hfull => absurd hroom (Nat.not_lt.mpr hfull)⟩
    rw [closeCycle_fifo, pushedWords_fifoPush_of_room hroom]
  · have hfull := Nat.not_lt.mp hroom
    have hstep := step_of_push_in_tick hport hpush htick
      (by rw [encView_fifoPush_of_full hfull]; exact encTick_withTxover he)
    refine ⟨_, hstep, closeCycle_osr .., closeCycle_osrCount .., fun h => absurd h hroom,
      fun _ => ⟨?_, closeCycle_dbg ..⟩⟩
    rw [closeCycle_fifo, pushedWords_fifoPush_of_full hfull, List.append_nil]
    rfl

end Sys2Proof.Claims
end

section
/-! PROOFS. The statements of spec/40_encoder_instructions.md: the word and the tick of each micro-instruction, and the
delay tick. -/

namespace Sys2Proof.Machine

/-! ### The operations of an instruction tick -/

/-- Addition on 5 bits is modulo 32 (R84). -/
theorem State.nextPc_not_taken (s : State) (addr : BitVec 5) : s.nextPc false addr = Claims.successor s := by
  have hinc : s.pc + 1 = BitVec.ofNat 5 ((s.pc.toNat + 1) % 32) := BitVec.eq_of_toNat_eq (by simp)
  rw [State.nextPc, if_neg Bool.false_ne_true, hinc, Claims.successor]

theorem State.readX_of_written {s : State} (h : s.xWritten = true) : s.readX = s.x := if_pos h

/-- A stalling OUT sets TXSTALL exactly if no word is waiting (R86). -/
theorem State.noteStall_eq (s : State) :
    s.noteStall = { s with dbg := { s.dbg with txstall := s.dbg.txstall || s.fifo.isEmpty } } := by
  have hlevel : s.fifoLevel = 0 ↔ s.fifo.isEmpty = true := List.isEmpty_iff_length_eq_zero.symm
  unfold State.noteStall
  cases h : s.fifo.isEmpty with
  | true => rw [if_pos (hlevel.mpr h), Bool.or_true]
  | false => rw [if_neg (by simp [hlevel, h]), Bool.or_false]

theorem State.shiftedOsr_true (s : State) : s.shiftedOsr true = s.osr <<< 1 :=
  ShiftDir.shift_eq s.config.shiftDir s.osr

/-- Below PULL_THRESH the count has room for one more (R6, R14). -/
theorem State.shiftedCount_true_toNat {s : State} (hl : s.config.legal = true)
    (h : s.osrCount.toNat < s.config.pullThresh) : (s.shiftedCount true).toNat = s.osrCount.toNat + 1 := by
  have hthresh := (Config.ranges_of_legal hl).pullThresh
  have one : (1 : BitVec 6).toNat = 1 := rfl
  simp only [State.shiftedCount, if_true, BitVec.toNat_add, one]
  omega

end Sys2Proof.Machine

namespace Sys2Proof.Claims

open Sys2Proof.Machine

/-! ### The refill and the ticks that end in it -/

/-- The frame of a refill (R87). -/
theorem refill_frame (shifted : Bool) (s : State) :
    s.refill shifted = { s with osr := (s.refill shifted).osr, osrCount := (s.refill shifted).osrCount,
                                fifo := (s.refill shifted).fifo } := by
  obtain ⟨w, rest, -, -, h⟩ | ⟨-, h⟩ := State.refill_cases s shifted <;> rw [h]

/-- What a refill leaves, in terms of the OSR and the count after this tick's shift (R87). -/
theorem refill_outcome (shifted : Bool) (s : State) :
    RefillOutcome (s.shiftedOsr shifted) (s.shiftedCount shifted).toNat s.fifo (s.refill shifted) := by
  unfold RefillOutcome
  rw [State.refill_config]
  obtain ⟨w, rest, hf, hc, h⟩ | ⟨hkeep, h⟩ := State.refill_cases s shifted
  · rw [if_pos ⟨hc, by simp [hf]⟩, h]
    exact ⟨hf, rfl⟩
  · rw [if_neg hkeep, h]
    exact ⟨rfl, rfl, rfl⟩

/-- The tick of an instruction that always completes and shifts nothing (R83, R84, R87, R91). -/
theorem plainTick_instructionTick (side taken : Bool) (addr : BitVec 5) (delay : BitVec 4) (s : State) :
    PlainTick side delay (s.nextPc taken addr) s (s.instructionTick side taken addr delay) :=
  ⟨refill_frame false ((s.setSide side).complete taken addr delay),
   refill_outcome false ((s.setSide side).complete taken addr delay)⟩

/-- A tick that jumps. -/
theorem plainTick_taken (side : Bool) (addr : BitVec 5) (delay : BitVec 4) (s : State) :
    PlainTick side delay addr s (s.instructionTick side true addr delay) :=
  plainTick_instructionTick side true addr delay s

/-- A tick that goes to the successor. -/
theorem plainTick_not_taken (side : Bool) (addr : BitVec 5) (delay : BitVec 4) (s : State) :
    PlainTick side delay (successor s) s (s.instructionTick side false addr delay) :=
  State.nextPc_not_taken s addr ▸ plainTick_instructionTick side false addr delay s

theorem outShift_frame (side : Bool) (delay : BitVec 4) (s : State) :
    s.outShift side delay = { s with
      x := s.osr.getLsbD 31, xWritten := true, pc := successor s, delayCtr := delay, wsOut := side,
      osr := (s.outShift side delay).osr, osrCount := (s.outShift side delay).osrCount,
      fifo := (s.outShift side delay).fifo } := by
  rw [← State.nextPc_not_taken s 0, ← ShiftDir.nextBit_eq s.config.shiftDir]
  exact refill_frame true _

theorem outShift_outcome (side : Bool) (delay : BitVec 4) {s : State} (hl : s.config.legal = true)
    (h : s.osrCount.toNat < s.config.pullThresh) :
    RefillOutcome (s.osr <<< 1) (s.osrCount.toNat + 1) s.fifo (s.outShift side delay) := by
  rw [← State.shiftedOsr_true, ← State.shiftedCount_true_toNat hl h]
  exact refill_outcome true
    { (s.setSide side).complete false 0 delay with x := s.config.shiftDir.nextBit s.osr, xWritten := true }

theorem outStall_frame (side : Bool) (s : State) :
    s.outStall side = { s with
      wsOut := side, osr := (s.outStall side).osr, osrCount := (s.outStall side).osrCount,
      fifo := (s.outStall side).fifo, dbg := { s.dbg with txstall := s.dbg.txstall || s.fifo.isEmpty } } := by
  unfold State.outStall
  rw [State.noteStall_eq]
  exact refill_frame false _

theorem outStall_outcome (side : Bool) (s : State) :
    RefillOutcome s.osr s.osrCount.toNat s.fifo (s.outStall side) := by
  unfold State.outStall
  rw [State.noteStall_eq]
  exact refill_outcome false { s.setSide side with
    dbg := { s.dbg with txstall := s.dbg.txstall || s.fifo.isEmpty } }

/-! ### The words -/

theorem sideDelayBits_toNat (side : Bool) (delay : BitVec 4) :
    (sideDelayBits side delay).toNat = side.toNat * 2 ^ 12 + delay.toNat * 2 ^ 8 := by
  revert side delay; decide

theorem and_eq_zero_of_mask {w x : Half} (mask : Half) (hw : w &&& mask = 0#16) (hx : mask &&& x = x) :
    w &&& x = 0#16 := by
  rw [← hx, ← BitVec.and_assoc, hw, BitVec.zero_and]

/-- SIDE and DELAY are bits 12..8 (R61). -/
theorem and_sideDelayBits_eq_zero {w : Half} (hw : w &&& 0x1F00#16 = 0#16) (side : Bool) (delay : BitVec 4) :
    w &&& sideDelayBits side delay = 0#16 :=
  and_eq_zero_of_mask 0x1F00#16 hw (by revert side delay; decide)

/-- Disjoint fields are joined by `|` as by addition, so the word is the sum of its fields (R74). -/
theorem encodesAs_of_fields {i : Instr} {side : Bool} {delay : BitVec 4} (base operand : Half)
    (hi : encode i = .micro (base ||| sideDelayBits side delay ||| operand)) (hbase : base &&& 0x1F00#16 = 0#16)
    (hoperand : operand &&& 0x1F00#16 = 0#16) (hdisjoint : operand &&& base = 0#16) :
    EncodesAs i base.toNat side delay operand.toNat := by
  have hfields : (base ||| sideDelayBits side delay) &&& operand = 0#16 := by
    rw [BitVec.and_comm, BitVec.and_or_distrib_left, hdisjoint, and_sideDelayBits_eq_zero hoperand, BitVec.or_zero]
  rw [EncodesAs, hi, ← BitVec.add_eq_or_of_and_eq_zero _ _ hfields,
    ← BitVec.add_eq_or_of_and_eq_zero _ _ (and_sideDelayBits_eq_zero hbase side delay), Nat.add_assoc base.toNat,
    ← sideDelayBits_toNat]
  simp only [BitVec.ofNat_add, BitVec.ofNat_toNat, BitVec.setWidth_eq]

/-- The word of an instruction without an operand. -/
theorem encodesAs_of_no_operand {i : Instr} {side : Bool} {delay : BitVec 4} (base : Half)
    (hi : encode i = .micro (base ||| sideDelayBits side delay)) (hbase : base &&& 0x1F00#16 = 0#16) :
    EncodesAs i base.toNat side delay 0 :=
  encodesAs_of_fields base 0#16 (by rw [BitVec.or_zero, hi]) hbase BitVec.zero_and BitVec.zero_and

/-- The word of format J: ADDR is bits 4..0 (R63). -/
theorem encodesAs_of_addr {i : Instr} {side : Bool} {delay : BitVec 4} {addr : BitVec 5} (base : Half)
    (hi : encode i = .micro (base ||| sideDelayBits side delay ||| addr.setWidth 16))
    (hbase : base &&& 0x1F00#16 = 0#16) (hlow : base &&& 0x001F#16 = 0#16) :
    EncodesAs i base.toNat side delay addr.toNat := by
  have hmask : ∀ a : BitVec 5, 0x001F#16 &&& a.setWidth 16 = a.setWidth 16 := by decide
  rw [← BitVec.toNat_setWidth_of_le (by decide : 5 ≤ 16)]
  refine encodesAs_of_fields base (addr.setWidth 16) hi hbase ?_ ?_
  · rw [BitVec.and_comm]; exact and_eq_zero_of_mask 0x001F#16 (by decide) (hmask addr)
  · rw [BitVec.and_comm]; exact and_eq_zero_of_mask 0x001F#16 hlow (hmask addr)

/-! ### The statements -/

/-- Settles O6: a jump's tick is the plain tick whose next pc is its target. -/
theorem jmpAlwaysJumps : Obligations.JmpAlwaysJumps := by
  intro side delay addr
  exact ⟨encodesAs_of_addr 0x0000#16 rfl (by decide) (by decide),
    fun s => ⟨_, exec_jmp .., plainTick_taken side addr delay s⟩⟩

/-- Settles O7: whether the tick jumps is X as `JMP !X` reads it, which is X itself once it was written. -/
theorem jmpNotXTestsX : Obligations.JmpNotXTestsX := by
  intro side delay addr
  refine ⟨encodesAs_of_addr 0x0020#16 rfl (by decide) (by decide), fun s => ⟨_, exec_jmpNotX .., ?_⟩⟩
  have jumps (hx : s.readX = false) : PlainTick side delay addr s (s.instructionTick side (!s.readX) addr delay) := by
    rw [hx]; exact plainTick_taken side addr delay s
  have falls (hx : s.readX = true) :
      PlainTick side delay (successor s) s (s.instructionTick side (!s.readX) addr delay) := by
    rw [hx]; exact plainTick_not_taken side addr delay s
  exact ⟨fun hw hx => jumps ((State.readX_of_written hw).trans hx),
    fun hw hx => falls ((State.readX_of_written hw).trans hx),
    fun _ => (Bool.eq_false_or_eq_true s.readX).symm.imp jumps falls⟩

/-- Settles O8: PULL_THRESH decides between the tick that shifts and the tick that stalls. -/
theorem outShiftsOrStalls : Obligations.OutShiftsOrStalls := by
  intro side delay
  refine ⟨encodesAs_of_no_operand 0x6021#16 rfl (by decide), fun s => ⟨_, exec_outX .., ?_, ?_⟩⟩
  · intro hl h
    have hempty : s.osrEmpty = false := decide_eq_false (Nat.not_le.mpr h)
    rw [hempty, if_neg Bool.false_ne_true]
    exact ⟨outShift_frame side delay s, outShift_outcome side delay hl h⟩
  · intro h
    have hempty : s.osrEmpty = true := decide_eq_true h
    rw [hempty, if_pos rfl]
    exact ⟨outStall_frame side s, outStall_outcome side s⟩

/-- Settles O9: `NOP` is the plain tick that goes to the successor. -/
theorem nopHoldsLevel : Obligations.NopHoldsLevel := by
  intro side delay
  exact ⟨encodesAs_of_no_operand 0xA042#16 rfl (by decide),
    fun s => ⟨_, exec_nop .., plainTick_not_taken side 0 delay s⟩⟩

/-- Settles O10: `SET PINDIRS, d` is the plain tick of the state whose direction is `d`. -/
theorem setPindirsSetsDirection : Obligations.SetPindirsSetsDirection := by
  intro d side delay
  refine ⟨?_, fun s =>
    ⟨_, exec_setPindirs .., State.refill_wsOe .., plainTick_not_taken side 0 delay { s with wsOe := d }⟩⟩
  have hd : d.toNat = ((BitVec.ofBool d).setWidth 16).toNat := by revert d; decide
  rw [hd]
  exact encodesAs_of_fields 0xE080#16 _ rfl (by decide) (by revert d; decide) (by revert d; decide)

/-- Settles O11: a delay tick is the count and the refill of R87. -/
theorem delayTickCountsDown : Obligations.DelayTickCountsDown := by
  intro s hd
  have hcount : (s.delayCtr - 1).toNat + 1 = s.delayCtr.toNat := by bv_omega
  have hdelay : s.delayTick.delayCtr = s.delayCtr - 1 := State.refill_delayCtr ..
  refine ⟨s.delayTick, if_pos hd, ?_, by rw [hdelay, hcount], refill_outcome false { s with delayCtr := s.delayCtr - 1 }⟩
  rw [hdelay]
  exact refill_frame false { s with delayCtr := s.delayCtr - 1 }

end Sys2Proof.Claims
end

section
/-! PROOFS. The statements of spec/41_clock_configurator.md: the divider CLKCFG loads, the accumulator of TICKGEN, and
what can change the clock registers. -/

namespace Sys2Proof.Machine

/-! ### The divider -/

theorem dividerUsable_eq_true_iff (q : Nat) : dividerUsable q = true ↔ 256 ≤ q ∧ q < 2 ^ 24 := by
  simp only [dividerUsable, Bool.and_eq_true, decide_eq_true_eq]

/-- INT and FRAC take their bits of the quotient (R111). -/
theorem State.loadDivider_eq (q : Nat) (s : State) : s.loadDivider q = { s with
    clkInt := BitVec.ofNat 16 (q / 256 % 2 ^ 16), clkFrac := BitVec.ofNat 8 (q % 256), clkValid := dividerUsable q } := by
  have hint : BitVec.ofNat 16 (q / 256 % 2 ^ 16) = BitVec.ofNat 16 (q / 256) := BitVec.eq_of_toNat_eq (by simp)
  have hfrac : BitVec.ofNat 8 (q % 256) = BitVec.ofNat 8 q := BitVec.eq_of_toNat_eq (by simp)
  rw [hint, hfrac, State.loadDivider]

theorem exec_clkcfgW_of_disabled {s : State} (hen : s.en = false) (v : Word) :
    exec (.clkcfgW v) s = .next s.configureClock := by
  rw [exec_clkcfgW, if_neg (Bool.eq_false_iff.mp hen)]

theorem exec_clkcfgW_of_enabled {s : State} (hen : s.en = true) (v : Word) :
    exec (.clkcfgW v) s = .next s.lockedWrite := by
  rw [exec_clkcfgW, if_pos hen]

/-! ### The accumulator -/

theorem nextAcc_of_disabled (q acc : BitVec 24) : nextAcc false q acc = 0 := rfl

/-- From `Q = 256` on, `acc + Q - 256` does not go negative (R116). -/
theorem nextAcc_tick_toNat {q acc : BitVec 24} (hq : 256 ≤ q.toNat) (h : acc.toNat < 256) :
    (nextAcc true q acc).toNat = acc.toNat + q.toNat - 256 := by
  have hnext : nextAcc true q acc = acc + q - 256 := if_pos h
  rw [hnext]
  bv_omega

theorem nextAcc_between_toNat (q : BitVec 24) {acc : BitVec 24} (h : 256 ≤ acc.toNat) :
    (nextAcc true q acc).toNat = acc.toNat - 256 := by
  have hnext : nextAcc true q acc = acc - 256 := if_neg (Nat.not_lt.mpr h)
  rw [hnext]
  bv_omega

/-- TICKGEN reads the state at the start of the cycle, and neither the host nor ENC writes `acc` (R116). -/
theorem step_acc {s t : State} (hr : s.nextPort.rstN = true) (h : step s = .next t) :
    t.acc = nextAcc s.en s.dividerQ s.acc := by
  obtain ⟨hs, e, -, -, -, -, -, -, -, rfl, -⟩ := step_effect hr h
  rw [closeCycle_eq]
  rfl

/-! ### The clock registers -/

/-- CLKDIV and CLK_VALID are the same in both states. -/
def SameClock (s t : State) : Prop := t.clkInt = s.clkInt ∧ t.clkFrac = s.clkFrac ∧ t.clkValid = s.clkValid

theorem SameClock.refl (s : State) : SameClock s s := ⟨rfl, rfl, rfl⟩

/-- No read, and no write of another address, decodes to CLKCFG (R69). -/
theorem decodeAccess_eq_clkcfgW {c : Config} {a : HostAccess} {v : Word} (h : decodeAccess c a = .ok (.clkcfgW v)) :
    a = ⟨true, 0x06#8, v⟩ := by
  obtain ⟨write, addr, wdata⟩ := a
  cases write with
  | true =>
    simp only [decodeAccess, decodeWrite, if_true, ite_eq_iff, Except.ok.injEq, Instr.clkcfgW.injEq, reduceCtorEq,
      and_false, or_false, false_or] at h
    obtain ⟨-, -, -, rfl, rfl⟩ := h
    rfl
  | false => simp [decodeAccess, decodeRead, ite_eq_iff] at h

/-- No read, and no write of another address, decodes to a SYSCLK write (R69). -/
theorem decodeAccess_eq_sysclkW {c : Config} {a : HostAccess} {v : Word} (h : decodeAccess c a = .ok (.sysclkW v)) :
    a = ⟨true, 0x04#8, v⟩ := by
  obtain ⟨write, addr, wdata⟩ := a
  cases write with
  | true =>
    simp only [decodeAccess, decodeWrite, if_true, ite_eq_iff, Except.ok.injEq, Instr.sysclkW.injEq, reduceCtorEq,
      and_false, or_false, false_or] at h
    obtain ⟨-, -, rfl, rfl⟩ := h
    rfl
  | false => simp [decodeAccess, decodeRead, ite_eq_iff] at h

/-- `CTRL.W` reads CLK_VALID, but not even its fault 2 writes the clock registers (R135). -/
theorem SameClock.of_ctrl (s : State) (v : Word) : SameClock s (s.writeCtrl v) := by
  unfold State.writeCtrl
  split_ifs <;> exact ⟨rfl, rfl, rfl⟩

theorem SameClock.of_push (s : State) (w : Word) : SameClock s (s.fifoPush w) :=
  ⟨State.fifoPush_clkInt s w, State.fifoPush_clkFrac s w, State.fifoPush_clkValid s w⟩

/-- A host operation other than CLKCFG and a SYSCLK write keeps the clock registers; a SYSCLK write keeps CLKDIV. -/
theorem exec_clock_cases {i : Instr} (hi : isMicro i = false) {s h : State} (hx : exec i s = .next h) :
    SameClock s h ∨ (∃ v, i = .clkcfgW v)
      ∨ ((∃ v, i = .sysclkW v) ∧ h.clkInt = s.clkInt ∧ h.clkFrac = s.clkFrac) := by
  cases i with
  | clkcfgW v => exact .inr (.inl ⟨v, rfl⟩)
  | sysclkW v =>
    injection hx with hx; subst hx
    refine .inr (.inr ⟨⟨v, rfl⟩, ?_⟩)
    split <;> exact ⟨rfl, rfl⟩
  | jmp | jmpNotX | outX | nop | setPindirs => cases hi
  | ctrlW v => injection hx with hx; subst hx; exact .inl (.of_ctrl s v)
  | txfW | pixpushW => injection hx with hx; subst hx; exact .inl (.of_push s _)
  | wrapW | palgenW | imemW | palR =>
    injection hx with hx; subst hx
    left; split <;> exact ⟨rfl, rfl, rfl⟩
  | _ => injection hx with hx; subst hx; exact .inl (.refl s)

/-- What the host can do to the clock registers in a cycle: with EN = 1 they are locked (R157). -/
theorem hostCycle_clock_cases {access : Option HostAccess} {s h : State} (hx : hostCycle access s = .next h) :
    SameClock s h ∨ (s.en = false ∧ ((∃ v, access = some ⟨true, 0x06#8, v⟩)
      ∨ ((∃ v, access = some ⟨true, 0x04#8, v⟩) ∧ h.clkInt = s.clkInt ∧ h.clkFrac = s.clkFrac))) := by
  cases hen : s.en with
  | true =>
    obtain ⟨-, hint, hfrac, hvalid, -⟩ := (hostCycle_effect hx).locked hen
    exact .inl ⟨hint, hfrac, hvalid⟩
  | false =>
    obtain ⟨-, he⟩ | ⟨a, i, rfl, hd, he⟩ | ⟨a, r, -, -, he⟩ := hostCycle_cases access s <;> rw [he] at hx
    · injection hx with hx; subst hx; exact .inl (.refl s)
    · obtain hsame | ⟨v, rfl⟩ | ⟨⟨v, rfl⟩, hdiv⟩ := exec_clock_cases (decodeAccess_isHost hd) hx
      · exact .inl hsame
      · exact .inr ⟨rfl, .inl ⟨v, congrArg some (decodeAccess_eq_clkcfgW hd)⟩⟩
      · exact .inr ⟨rfl, .inr ⟨⟨v, congrArg some (decodeAccess_eq_sysclkW hd)⟩, hdiv⟩⟩
    · injection hx with hx; subst hx
      left; unfold State.ignoredAccess; split <;> exact ⟨rfl, rfl, rfl⟩

/-- Of a cycle without reset, the host's part alone writes the clock registers. -/
theorem step_clock {s t : State} (hr : s.nextPort.rstN = true) (h : step s = .next t) :
    ∃ hs, hostCycle s.nextPort.access s.openCycle = .next hs ∧ SameClock hs t := by
  obtain ⟨hs, e, -, hhost, -, -, -, -, henc, rfl, -⟩ := step_effect hr h
  refine ⟨hs, hhost, ?_⟩
  rw [closeCycle_eq]
  obtain ⟨-, -, eff⟩ | ⟨-, rfl⟩ := henc
  · exact ⟨eff.clkInt_eq, eff.clkFrac_eq, eff.clkValid_eq⟩
  · exact .refl hs

end Sys2Proof.Machine

namespace Sys2Proof.Claims

open Sys2Proof.Machine

/-- Settles O22: the quotient of R111 decides between the divider that is loaded and fault 2. -/
theorem clkcfgComputesDivider : Obligations.ClkcfgComputesDivider := by
  intro v s q t
  have hload : s.loadDivider q = { t with clkValid := dividerUsable q } := State.loadDivider_eq q s
  refine ⟨fun hen hq => ?_, fun hen hq => ?_, fun hen => exec_clkcfgW_of_enabled hen v⟩
  · have husable : dividerUsable q = true := (dividerUsable_eq_true_iff q).mpr hq
    have hclock : s.configureClock = s.loadDivider q := if_pos husable
    rw [exec_clkcfgW_of_disabled hen, hclock, hload, husable]
  · have hunusable : dividerUsable q = false := Bool.eq_false_iff.mpr (mt (dividerUsable_eq_true_iff q).mp hq)
    have hclock : s.configureClock = (s.loadDivider q).raiseClockConfig := if_neg (Bool.eq_false_iff.mp hunusable)
    rw [exec_clkcfgW_of_disabled hen, hclock, hload, hunusable]
    rfl

/-- Settles O41: `acc` is TICKGEN's, and its two sums stay in range for `Q >= 256` and `acc < Q`. -/
theorem tickgenStepsAccumulator : Obligations.TickgenStepsAccumulator := by
  intro s t hr hstep
  rw [step_acc hr hstep, ← dividerQ_toNat]
  refine ⟨fun hen => by rw [hen, nextAcc_of_disabled], fun hen hq hacc => ?_⟩
  rw [hen]
  refine ⟨nextAcc_tick_toNat hq, nextAcc_between_toNat s.dividerQ, ?_⟩
  obtain htick | hbetween := Nat.lt_or_ge s.acc.toNat 256
  · rw [nextAcc_tick_toNat hq htick]; omega
  · rw [nextAcc_between_toNat _ hbetween]; omega

/-- Settles O50: only the host writes the clock registers, and only by CLKCFG and a SYSCLK write with EN = 0. -/
theorem dividerChangesOnlyByConfigurator : Obligations.DividerChangesOnlyByConfigurator := by
  intro s t hr hstep
  obtain ⟨hs, hhost, hint, hfrac, hvalid⟩ := step_clock hr hstep
  rw [hint, hfrac, hvalid]
  obtain ⟨hint, hfrac, hvalid⟩ | ⟨hen, ⟨v, hclkcfg⟩ | ⟨⟨v, hsysclk⟩, hint, hfrac⟩⟩ := hostCycle_clock_cases hhost
  · exact ⟨fun hne => (hne.elim (· hint) (· hfrac)).elim, fun hne => (hne hvalid).elim⟩
  · exact ⟨fun _ => ⟨hen, v, hclkcfg⟩, fun _ => ⟨hen, v, .inl hclkcfg⟩⟩
  · exact ⟨fun hne => (hne.elim (· hint) (· hfrac)).elim, fun _ => ⟨hen, v, .inr hsysclk⟩⟩

end Sys2Proof.Claims
end

section
/-! PROOFS. The statements of spec/43_host_operations.md: what each host operation reads and writes, the locked writes,
and the accesses that are no operation. -/

namespace Sys2Proof.Machine

/-! ### Register images as numbers -/

/-- Joined bit vectors are the sum of their fields at their places. -/
theorem toNat_append_eq_add {m n : Nat} (x : BitVec m) (y : BitVec n) :
    (x ++ y).toNat = x.toNat * 2 ^ n + y.toNat := by
  rw [BitVec.toNat_append, ← Nat.shiftLeft_add_eq_or_of_lt y.isLt, Nat.shiftLeft_eq]

theorem bitImage_toNat (b : Bool) : (bitImage b).toNat = b.toNat := by
  cases b <;> rfl

theorem State.debugImage_toNat (s : State) :
    s.debugImage.toNat = s.dbg.txstall.toNat + 2 * s.dbg.txover.toNat + 4 * s.dbg.busywr.toNat := by
  simp only [State.debugImage, toNat_append_eq_add, BitVec.toNat_ofBool, BitVec.toNat_ofNat]
  omega

theorem State.faultImage_toNat (s : State) :
    s.faultImage.toNat = s.fault.fins.toNat * 2 ^ 16 + s.fault.fpc.toNat * 2 ^ 8 + s.fault.code.toNat := by
  simp only [State.faultImage, toNat_append_eq_add, BitVec.toNat_ofNat]
  omega

theorem State.clkdivImage_toNat (s : State) :
    s.clkdivImage.toNat = s.clkInt.toNat * 2 ^ 16 + s.clkFrac.toNat * 2 ^ 8 := by
  simp only [State.clkdivImage, toNat_append_eq_add, BitVec.toNat_ofNat]
  omega

theorem State.wrapImage_toNat (s : State) :
    s.wrapImage.toNat = s.wrapTop.toNat * 2 ^ 8 + s.wrapBottom.toNat := by
  simp only [State.wrapImage, toNat_append_eq_add, BitVec.toNat_ofNat]
  omega

theorem State.addrImage_toNat (s : State) : s.addrImage.toNat = s.pc.toNat :=
  BitVec.toNat_setWidth_of_le (by decide)

/-! ### Written fields as numbers -/

/-- A field of a written word, as a quotient and a remainder of the word. -/
theorem extractLsb'_toNat_eq_mod (v : Word) (start len : Nat) :
    (v.extractLsb' start len).toNat = v.toNat / 2 ^ start % 2 ^ len := by
  rw [BitVec.extractLsb'_toNat, Nat.shiftRight_eq_div_pow]

/-- The shifted channels of PACK do not overlap: bit by bit it is the concatenation (R125). -/
theorem pack_eq_append (p : Pixel) : pack p = p.g ++ p.r ++ p.b ++ 0#8 := by
  ext i hi
  simp only [pack, BitVec.getElem_or, BitVec.getElem_shiftLeft, BitVec.getElem_setWidth]
  grind

theorem pack_toNat (p : Pixel) :
    (pack p).toNat = p.g.toNat * 2 ^ 24 + p.r.toNat * 2 ^ 16 + p.b.toNat * 2 ^ 8 := by
  simp only [pack_eq_append, toNat_append_eq_add, BitVec.toNat_ofNat]
  omega

/-! ### STAT -/

theorem isOutX_iff (w : Half) : isOutX w = true ↔ ∃ side delay, decodeMicro w = .ok (.outX side delay) := by
  unfold isOutX
  split
  · next side delay h => exact ⟨fun _ => ⟨side, delay, h⟩, fun _ => rfl⟩
  · next h => exact ⟨fun hf => absurd hf Bool.false_ne_true, fun ⟨side, delay, hd⟩ => (h side delay hd).elim⟩

theorem State.stalled_iff (s : State) : s.stalled = true ↔ s.en = true ∧ s.delayCtr = 0
    ∧ (∃ side delay, decodeMicro s.fetchWord = .ok (.outX side delay))
    ∧ s.config.pullThresh ≤ s.osrCount.toNat := by
  simp only [State.stalled, State.osrEmpty, Bool.and_eq_true, decide_eq_true_eq, isOutX_iff, and_assoc]

theorem State.txEmpty_eq (s : State) : s.txEmpty = s.fifo.isEmpty := by
  cases h : s.fifo <;> simp [State.txEmpty, State.fifoLevel, h]

/-- The one-bit fields of STAT at their places (R17). -/
theorem State.statImage_bits (s : State) :
    s.statImage.getLsbD 0 = s.txFull ∧ s.statImage.getLsbD 1 = s.txEmpty ∧ s.statImage.getLsbD 8 = s.stalled
    ∧ s.statImage.getLsbD 9 = s.halted ∧ s.statImage.getLsbD 10 = s.palDone ∧ s.statImage.getLsbD 11 = s.palBusy
    ∧ s.statImage.getLsbD 12 = s.owned ∧ s.statImage.getLsbD 13 = s.clkValid ∧ s.statImage.getLsbD 14 = s.wsOut
    ∧ s.statImage.getLsbD 15 = s.wsOe := by
  simp only [State.statImage, BitVec.getLsbD_append]
  simp

/-- TXLEVEL and the reserved bits of STAT at their places (R17). -/
theorem State.statImage_slices (s : State) :
    s.statImage.extractLsb' 2 2 = 0 ∧ s.statImage.extractLsb' 4 4 = BitVec.ofNat 4 s.fifoLevel
    ∧ s.statImage.extractLsb' 16 16 = 0 := by
  unfold State.statImage
  simp only [BitVec.extractLsb'_append_eq_of_le, Nat.reduceLeDiff, Nat.reduceSub, Nat.le_refl]
  exact ⟨BitVec.extractLsb'_append_eq_right, BitVec.extractLsb'_append_eq_right, rfl⟩

/-! ### CTRL.W -/

theorem State.writeCtrl_of_stop {v : Word} (hv : v.getLsbD 0 = false) (s : State) :
    s.writeCtrl v = { s with en := false } := by
  simp only [State.writeCtrl, enBit, hv, Bool.not_false, if_true]

theorem State.writeCtrl_of_halted {v : Word} {s : State} (hv : v.getLsbD 0 = true) (hf : s.fault.code ≠ 0) :
    s.writeCtrl v = s := by
  simp only [State.writeCtrl, enBit, hv, Bool.not_true, Bool.false_eq_true, if_false, if_pos hf]

theorem State.writeCtrl_of_no_fault {v : Word} {s : State} (hv : v.getLsbD 0 = true) (hf : s.fault.code = 0) :
    s.writeCtrl v = if s.clkValid then { s with en := true } else s.raiseClockConfig := by
  cases hc : s.clkValid <;> simp [State.writeCtrl, enBit, hv, hf, hc]

/-! ### Locked writes -/

theorem exec_sysclkW_of_enabled {s : State} (hen : s.en = true) (v : Word) :
    exec (.sysclkW v) s = .next s.lockedWrite := by
  rw [exec_sysclkW, if_pos hen]

theorem exec_wrapW_of_enabled {s : State} (hen : s.en = true) (v : Word) :
    exec (.wrapW v) s = .next s.lockedWrite := by
  rw [exec_wrapW, if_pos hen]

theorem exec_imemW_of_enabled {s : State} (hen : s.en = true) (i : BitVec 5) (v : Word) :
    exec (.imemW i v) s = .next s.lockedWrite := by
  rw [exec_imemW, if_pos hen]

theorem exec_palgenW_of_busy {s : State} (hb : s.palBusy = true) (v : Word) :
    exec (.palgenW v) s = .next s.lockedWrite := by
  rw [exec_palgenW, if_pos hb]

/-! ### The addresses of the operations -/

/-- The PAL addresses of the hardware are 0x80 to 0x80 + N_LEDS - 1 (R69). -/
theorem palAddress_range {c : Config} {addr : Byte}
    (h : (addr.getLsbD 7 && paletteIndexOk c (addr.extractLsb' 0 7)) = true) :
    0x80 ≤ addr.toNat ∧ addr.toNat < 0x80 + c.nLeds := by
  have hhigh : ∀ a : Byte, a.getLsbD 7 = true → 0x80 ≤ a.toNat ∧ a.toNat = 0x80 + (a.extractLsb' 0 7).toNat := by
    decide
  simp only [Bool.and_eq_true, paletteIndexOk, decide_eq_true_eq] at h
  obtain ⟨hle, heq⟩ := hhigh addr h.1
  omega

/-- The IMEM addresses are 0x20 to 0x3F (R69). -/
theorem imemAddress_range (addr : Byte) (h : addr &&& 0xE0#8 = 0x20#8) : 0x20 ≤ addr.toNat ∧ addr.toNat < 0x40 := by
  revert addr; decide

/-- The addresses at which a read is an operation (R69). -/
theorem decodeRead_ok_range {c : Config} {addr : Byte} {i : Instr} (h : decodeRead c addr = .ok i) :
    addr.toNat ≤ 0x05 ∨ addr.toNat = 0x07 ∨ addr.toNat = 0x0A ∨ addr.toNat = 0x0C
      ∨ (0x80 ≤ addr.toNat ∧ addr.toNat < 0x80 + c.nLeds) := by
  -- With the PAL addresses set apart, each branch left names its address.
  by_cases hpal : (addr.getLsbD 7 && paletteIndexOk c (addr.extractLsb' 0 7)) = true
  · have hrange := palAddress_range hpal
    omega
  · simp only [decodeRead, hpal, ite_eq_iff, reduceCtorEq, and_false, or_false] at h
    grind

/-- The addresses at which a write is an operation (R69). -/
theorem decodeWrite_ok_range {c : Config} {addr : Byte} {v : Word} {i : Instr} (h : decodeWrite c addr v = .ok i) :
    addr.toNat = 0x00 ∨ addr.toNat = 0x02 ∨ addr.toNat = 0x04 ∨ (0x06 ≤ addr.toNat ∧ addr.toNat ≤ 0x09)
      ∨ addr.toNat = 0x0B ∨ (0x20 ≤ addr.toNat ∧ addr.toNat < 0x40) := by
  have himem := imemAddress_range addr
  simp only [decodeWrite, ite_eq_iff, reduceCtorEq, and_false, or_false] at h
  bv_omega

/-- An access at which no operation stands is ignored (R154). -/
theorem hostCycle_of_no_operation {a : HostAccess} {s : State} (h : ∀ i, decodeAccess s.config a ≠ .ok i) :
    hostCycle (some a) s = .next (s.ignoredAccess a.write) := by
  obtain ⟨hnone, -⟩ | ⟨b, i, hb, hd, -⟩ | ⟨b, r, hb, -, hx⟩ := hostCycle_cases (some a) s
  · cases hnone
  · cases hb; exact absurd hd (h i)
  · cases hb; exact hx

/-- A read outside the operations' addresses answers 0 (R154). -/
theorem hostCycle_read_of_no_operation {a : HostAccess} {s : State} (hw : a.write = false)
    (h : ∀ i, decodeRead s.config a.addr ≠ .ok i) : hostCycle (some a) s = .next { s with hRdata := some 0 } := by
  rw [hostCycle_of_no_operation (by simpa only [decodeAccess, hw, Bool.false_eq_true, if_false] using h), hw]
  rfl

/-- A write outside the operations' addresses does nothing (R154). -/
theorem hostCycle_write_of_no_operation {a : HostAccess} {s : State} (hw : a.write = true)
    (h : ∀ i, decodeWrite s.config a.addr a.wdata ≠ .ok i) : hostCycle (some a) s = .next s := by
  rw [hostCycle_of_no_operation (by simpa only [decodeAccess, hw, if_true] using h), hw]
  rfl

/-! ### OWNED -/

/-- A read of CLAIM is `CLAIM.R`, and no other access is (R69). -/
theorem decodeAccess_eq_claimR_iff {c : Config} {a : HostAccess} :
    decodeAccess c a = .ok .claimR ↔ ∃ v, a = ⟨false, 0x0A#8, v⟩ := by
  constructor
  · intro h
    obtain ⟨write, addr, wdata⟩ := a
    cases write with
    | true => simp [decodeAccess, decodeWrite, ite_eq_iff] at h
    | false =>
      simp only [decodeAccess, decodeRead, Bool.false_eq_true, if_false, ite_eq_iff, Except.ok.injEq, reduceCtorEq,
        and_false, or_false, false_or, and_true] at h
      obtain ⟨-, -, -, -, -, -, -, rfl⟩ := h
      exact ⟨wdata, rfl⟩
  · rintro ⟨v, rfl⟩
    rfl

/-- No host operation but `CLAIM.R` writes OWNED. -/
theorem exec_owned_cases {i : Instr} (hi : isMicro i = false) {s h : State} (hx : exec i s = .next h) :
    h.owned = s.owned ∨ (i = .claimR ∧ h.owned = true) := by
  cases i with
  | jmp | jmpNotX | outX | nop | setPindirs => cases hi
  | claimR => injection hx with hx; subst hx; exact .inr ⟨rfl, rfl⟩
  | txfW | pixpushW => injection hx with hx; subst hx; exact .inl (State.fifoPush_owned ..)
  | ctrlW v =>
    injection hx with hx; subst hx
    left; unfold State.writeCtrl; split_ifs <;> rfl
  | clkcfgW v =>
    injection hx with hx; subst hx
    split
    · exact .inl rfl
    · obtain ⟨-, hclk⟩ | ⟨-, hclk⟩ := State.configureClock_cases s <;> rw [hclk] <;> exact .inl rfl
  | sysclkW | wrapW | palgenW | imemW | palR =>
    injection hx with hx; subst hx
    left; split <;> rfl
  | _ => injection hx with hx; subst hx; exact .inl rfl

@[simp] theorem State.ignoredAccess_owned (s : State) (write : Bool) : (s.ignoredAccess write).owned = s.owned := by
  unfold State.ignoredAccess; split <;> rfl

/-- The host's part of a cycle leaves OWNED, or is a read of CLAIM. -/
theorem hostCycle_owned_cases {access : Option HostAccess} {s h : State} (hx : hostCycle access s = .next h) :
    h.owned = s.owned ∨ ∃ v, access = some ⟨false, 0x0A#8, v⟩ := by
  obtain ⟨-, he⟩ | ⟨a, i, rfl, hd, he⟩ | ⟨a, r, -, -, he⟩ := hostCycle_cases access s <;> rw [he] at hx
  · injection hx with hx; subst hx; exact .inl rfl
  · obtain hkept | ⟨rfl, -⟩ := exec_owned_cases (decodeAccess_isHost hd) hx
    · exact .inl hkept
    · obtain ⟨v, rfl⟩ := decodeAccess_eq_claimR_iff.mp hd
      exact .inr ⟨v, rfl⟩
  · injection hx with hx; subst hx; exact .inl (State.ignoredAccess_owned ..)

/-- While OWNED = 0, the host's part of a cycle sets it exactly by a read of CLAIM (R149). -/
theorem hostCycle_owned_iff {access : Option HostAccess} {s h : State} (hx : hostCycle access s = .next h)
    (ho : s.owned = false) : h.owned = true ↔ ∃ v, access = some ⟨false, 0x0A#8, v⟩ := by
  constructor
  · exact fun howned => (hostCycle_owned_cases hx).resolve_left fun hkept => by simp [hkept, ho] at howned
  · rintro ⟨v, rfl⟩
    injection hx with hx; subst hx; rfl

@[simp] theorem closeCycle_owned (s h e : State) : (closeCycle s h e).owned = e.owned := by
  rw [closeCycle_eq]

/-- Of a cycle without reset, the host's part alone writes OWNED. -/
theorem step_owned {s t : State} (hr : s.nextPort.rstN = true) (h : step s = .next t) :
    ∃ hs, hostCycle s.nextPort.access s.openCycle = .next hs ∧ t.owned = hs.owned := by
  obtain ⟨hs, e, -, hhost, -, -, -, -, henc, rfl, -⟩ := step_effect hr h
  refine ⟨hs, hhost, ?_⟩
  rw [closeCycle_owned]
  obtain ⟨-, -, eff⟩ | ⟨-, rfl⟩ := henc
  · exact eff.owned_eq
  · rfl

/-! ### A host access in the cycle of a tick -/

@[simp] theorem closeCycle_en (s h e : State) : (closeCycle s h e).en = e.en := by
  rw [closeCycle_eq]

@[simp] theorem closeCycle_wsOut (s h e : State) : (closeCycle s h e).wsOut = e.wsOut := by
  rw [closeCycle_eq]

@[simp] theorem closeCycle_fault (s h e : State) : (closeCycle s h e).fault = e.fault := by
  rw [closeCycle_eq]

/-- An access beside a tick: ENC's tick runs on what the host leaves, with the FIFO as it stood. -/
theorem step_of_access_in_tick {s hs e : State} {a : HostAccess} (hport : s.nextPort = ⟨true, some a⟩)
    (hhost : hostCycle (some a) s.openCycle = .next hs) (htick : s.isTick = true)
    (he : encTick (encView s.openCycle hs) = .next e) : step s = .next (closeCycle s.openCycle hs e) :=
  step_of_cycle (by rw [hport]) (by rw [hport]; exact hhost)
    ((encCycle_of_isTick (start := s.openCycle) htick hs).trans he)

theorem encTick_of_ok {s : State} {i : Instr} (hd : s.delayCtr = 0) (hdec : decodeMicro s.fetchWord = .ok i) :
    encTick s = exec i s := by
  rw [encTick, if_neg (not_not.mpr hd), hdec]

theorem encTick_of_error {s : State} {r : Reject} (hd : s.delayCtr = 0)
    (hdec : decodeMicro s.fetchWord = .error r) : encTick s = .next s.raiseIllegal := by
  rw [encTick, if_neg (not_not.mpr hd), hdec]

theorem encTick_of_stall {s : State} {side : Bool} {delay : BitVec 4} (hd : s.delayCtr = 0)
    (hdec : decodeMicro s.fetchWord = .ok (.outX side delay)) (hc : s.config.pullThresh ≤ s.osrCount.toNat) :
    encTick s = .next (s.outStall side) := by
  have hempty : s.osrEmpty = true := decide_eq_true hc
  rw [encTick_of_ok hd hdec, exec_outX, if_pos hempty]

/-- A stall with no word waiting sets TXSTALL and no other flag (R86). -/
theorem State.outStall_dbg_of_no_word {s : State} (h : s.fifo = []) (side : Bool) :
    (s.outStall side).dbg = { s.dbg with txstall := true } := by
  rw [State.outStall, State.refill_dbg, State.noteStall_eq, State.setSide_fifo, h, List.isEmpty_nil, Bool.or_true]
  rfl

/-- After fault entry a fault stands, the first or an earlier one (R204). -/
theorem State.raiseFault_code_ne_zero {code : BitVec 4} (hc : code ≠ 0) (fpc : BitVec 5) (fins : Half) (s : State) :
    (s.raiseFault code fpc fins).fault.code ≠ 0 := by
  by_cases hf : s.fault.code = 0
  · rw [State.raiseFault_first hf]; exact hc
  · rw [State.raiseFault_kept hf]; exact hf

/-- A tick that fetches a reserved word halts ENC, whatever the host does in the same cycle (R41). -/
theorem step_illegal_fetch {s t : State} (hr : s.nextPort.rstN = true) (htick : s.isTick = true)
    (hd : s.delayCtr = 0) {r : Reject} (hdec : decodeMicro s.fetchWord = .error r) (hstep : step s = .next t) :
    t.en = false ∧ t.wsOut = false ∧ t.fault.code ≠ 0 := by
  obtain ⟨hs, e, pushed, -, eff, -, -, -, ⟨-, he, -⟩ | ⟨hno, -⟩, rfl, -⟩ := step_effect hr hstep
  · have hen : s.openCycle.en = true := ((Claims.isTick_iff_inTick s).mp htick).1
    have hview : decodeMicro ({ hs with fifo := s.fifo } : State).fetchWord = .error r := by
      rw [eff.fetchWord_eq hen]; exact hdec
    rw [encTick_of_error (s := { hs with fifo := s.fifo }) (eff.delayCtr_eq.trans hd) hview] at he
    injection he with he; subst he
    rw [closeCycle_en, closeCycle_wsOut, closeCycle_fault]
    exact ⟨rfl, rfl, State.raiseFault_code_ne_zero (code := 1) (by decide) _ _ _⟩
  · rw [htick] at hno; cases hno

end Sys2Proof.Machine

namespace Sys2Proof.Claims

open Sys2Proof.Machine

/-- The commit of the model is the commit of the statements, with the pushed words behind what ENC left. -/
theorem closeCycle_eq_committed (s h e : State) :
    closeCycle s.openCycle h e = Committed s { e with fifo := e.fifo ++ pushedWords s.openCycle h } := by
  have hq : BitVec.ofNat 24 (s.clkInt.toNat * 256 + s.clkFrac.toNat) = s.dividerQ := by
    rw [← dividerQ_toNat, BitVec.ofNat_toNat, BitVec.setWidth_eq]
  have hacc : s.openCycle.tickgenAcc
      = if s.en then (if s.acc.toNat < 256 then s.acc + s.dividerQ - 256 else s.acc - 256) else 0 := by
    show nextAcc s.en s.dividerQ s.acc = _
    cases s.en <;> rfl
  unfold Committed
  rw [closeCycle_eq, hacc, State.openCycle_palBusy]
  simp only [hq]
  cases s.palBusy with
  | false => rfl
  | true => by_cases ht : 1 < e.palTimer <;> simp [ht]

/-- Settles O17: EN and FAULT.CODE decide the four cases; beside a tick, ENC runs on what the host left, so a stop does
not keep it from running and its fault comes last. -/
theorem ctrlWriteCases : Obligations.CtrlWriteCases := by
  refine ⟨fun v s => ⟨fun hv => ?_, fun hv hf => ?_, fun hv hf hc => ?_, fun hv hf hc => ?_⟩, ?_, ?_⟩
  · rw [exec_ctrlW, State.writeCtrl_of_stop hv]
  · rw [exec_ctrlW, State.writeCtrl_of_halted hv hf]
  · rw [exec_ctrlW, State.writeCtrl_of_no_fault hv hf, if_neg (Bool.eq_false_iff.mp hc),
      State.raiseClockConfig, State.raiseFault_first hf]
  · rw [exec_ctrlW, State.writeCtrl_of_no_fault hv hf, if_pos hc]
  · intro s e v hport hv hin he
    have hstopped : e.en = false := by
      obtain ⟨-, hen⟩ | ⟨-, -, rfl⟩ := (encTick_effect he).fault
      · exact hen
      · rfl
    have hhost : hostCycle (some ⟨true, 0x00#8, v⟩) s.openCycle = .next { s.openCycle with en := false } :=
      congrArg _ (State.writeCtrl_of_stop hv s.openCycle)
    have hpushed : pushedWords s.openCycle { s.openCycle with en := false } = [] :=
      pushedWords_of_append (List.append_nil _).symm
    refine ⟨hstopped, ?_⟩
    rw [step_of_access_in_tick hport hhost ((isTick_iff_inTick s).mpr hin) he, closeCycle_eq_committed, hpushed,
      List.append_nil]
  · intro s t v hport _ hin hd hdec hstep
    exact step_illegal_fetch (by rw [hport]) ((isTick_iff_inTick s).mpr hin) hd hdec hstep

/-- Settles O18: each read answers the image of its register, whose number is the sum of its fields. -/
theorem registerReadsAnswerTheirFields : Obligations.RegisterReadsAnswerTheirFields := fun s =>
  ⟨⟨_, exec_ctrlR s, bitImage_toNat s.en⟩, ⟨_, exec_debugR s, s.debugImage_toNat⟩,
   ⟨_, exec_faultR s, s.faultImage_toNat⟩, exec_sysclkR s, ⟨_, exec_clkdivR s, s.clkdivImage_toNat⟩,
   ⟨_, exec_wrapR s, s.wrapImage_toNat⟩, ⟨_, exec_addrR s, s.addrImage_toNat⟩⟩

/-- Settles O19: the fields of STAT stand side by side, and a legal FIFO_DEPTH leaves TXLEVEL room for the level. -/
theorem statReadAnswersStatusFields : Obligations.StatReadAnswersStatusFields := by
  intro s hl hlen
  have hlevel : (BitVec.ofNat 4 s.fifo.length).toNat = s.fifo.length := by
    have := (Config.ranges_of_legal hl).fifoDepth
    rw [BitVec.toNat_ofNat, Nat.mod_eq_of_lt (by omega)]
  obtain ⟨hfull, hempty, hstalled, hhalted, hbits⟩ := s.statImage_bits
  obtain ⟨hlow, hlevelAt, hhigh⟩ := s.statImage_slices
  obtain ⟨hdone, hbusy, howned, hvalid, hout, hoe⟩ := hbits
  exact ⟨s.statImage, exec_statR s, hfull, hempty.trans s.txEmpty_eq, hlow, hlevelAt ▸ hlevel,
    hstalled ▸ s.stalled_iff, hhalted, hdone, hbusy, howned, hvalid, hout, hoe, hhigh⟩

/-- Settles O20: ENC's tick runs on the flags as the host left them, so the TXSTALL it sets stands. -/
theorem debugWriteClearsUnlessSet : Obligations.DebugWriteClearsUnlessSet := by
  refine ⟨fun v s => exec_debugW v s, fun v s side delay hport hin hd hdec hcount hfifo => ?_⟩
  have htick := encTick_of_stall (s := encView s.openCycle { s.openCycle with dbg := s.dbg.clear v }) hd hdec hcount
  exact ⟨_, step_of_access_in_tick hport rfl ((isTick_iff_inTick s).mpr hin) htick,
    (closeCycle_dbg ..).trans (State.outStall_dbg_of_no_word (by exact hfifo) side)⟩

/-- Settles O25: PACK of the written pixel is the number of its bytes at their places. -/
theorem pixpushPacksThenPushes : Obligations.PixpushPacksThenPushes := by
  intro v s r g b w
  have hpack : pack (pixelOfRegister v) = w := by
    apply BitVec.eq_of_toNat_eq
    rw [pack_toNat]
    simp only [pixelOfRegister, extractLsb'_toNat_eq_mod, w, r, g, b, BitVec.toNat_ofNat]
    omega
  rw [exec_pixpushW, exec_txfW, hpack]
  exact ⟨rfl, fun h => congrArg _ (State.fifoPush_of_room h), fun h => congrArg _ (State.fifoPush_of_full h)⟩

/-- Settles O26: a read of CLAIM alone sets OWNED, ENC and the commit leave it, and reset alone clears it. -/
theorem claimReadTestsAndSets : Obligations.ClaimReadTestsAndSets := by
  refine ⟨fun s => ⟨fun ho => ?_, fun ho => ?_⟩,
    fun s t hstep => ⟨fun hr => ?_, fun hr ho => ?_, fun hr ho => ?_⟩⟩
  · rw [exec_claimR, ho]; rfl
  · rw [exec_claimR, ho]; rfl
  · obtain ⟨-, rfl⟩ | ⟨hr', -⟩ := step_cases hstep
    · rfl
    · rw [hr] at hr'; cases hr'
  · obtain ⟨hs, hhost, howned⟩ := step_owned hr hstep
    rw [howned]; exact (hostCycle_effect hhost).owned ho
  · obtain ⟨hs, hhost, howned⟩ := step_owned hr hstep
    rw [howned]; exact hostCycle_owned_iff hhost ho

/-- Settles O29: the low half of the word is what word i reads as, the laws of a memory keep the others, and no read has
an address in IMEM. -/
theorem imemWriteStoresOneWord : Obligations.ImemWriteStoresOneWord := by
  intro i v s
  refine ⟨fun hen => ?_, fun hen => exec_imemW_of_enabled hen i v, ?_⟩
  · have hfield : imemField v = BitVec.ofNat 16 (v.toNat % 2 ^ 16) := by
      apply BitVec.eq_of_toNat_eq
      rw [imemField, extractLsb'_toNat_eq_mod, BitVec.toNat_ofNat]
      omega
    refine ⟨{ s with imem := s.imem.write i.toNat (imemField v) }, ?_, rfl, ?_, fun a ha => ?_⟩
    · rw [exec_imemW, if_neg (Bool.eq_false_iff.mp hen)]
    · simp only [State.imemWord, Memory.read_write_same, hfield]
    · exact Memory.read_write_other s.imem (imemField v) ha
  · refine hostCycle_read_of_no_operation rfl fun j hj => ?_
    have haddr : (BitVec.ofNat 8 (0x20 + i.toNat)).toNat = 0x20 + i.toNat := by
      rw [BitVec.toNat_ofNat]; omega
    have hrange := decodeRead_ok_range hj
    rw [haddr] at hrange
    omega

/-- Settles O32: outside the addresses of the operations an access is ignored. -/
theorem otherAccessesAreHarmless : Obligations.OtherAccessesAreHarmless := by
  intro a s n
  refine ⟨fun hw hn => hostCycle_read_of_no_operation hw fun i hi => ?_,
    fun hw hn => hostCycle_write_of_no_operation hw fun i hi => ?_⟩
  · have hrange := decodeRead_ok_range hi
    omega
  · have hrange := decodeWrite_ok_range hi
    omega

/-- Settles O21: EN decides between the store and the locked write. -/
theorem sysclkWriteClearsValid : Obligations.SysclkWriteClearsValid := fun v s =>
  ⟨fun hen => by rw [exec_sysclkW, if_neg (Bool.eq_false_iff.mp hen)], fun hen => exec_sysclkW_of_enabled hen v⟩

/-- Settles O23: BOTTOM and TOP are bit fields of the written word, so remainders of its quotients. -/
theorem wrapWriteStoresBounds : Obligations.WrapWriteStoresBounds := by
  intro v s
  refine ⟨fun hen => ⟨{ s with wrapBottom := bottomField v, wrapTop := topField v }, ?_, rfl, ?_, ?_⟩,
    fun hen => exec_wrapW_of_enabled hen v⟩
  · rw [exec_wrapW, if_neg (Bool.eq_false_iff.mp hen)]
  · rw [bottomField, extractLsb'_toNat_eq_mod, Nat.pow_zero, Nat.div_one]; rfl
  · exact extractLsb'_toNat_eq_mod v 8 5

/-- Settles O24: FIFO_DEPTH decides between the push and the drop. -/
theorem txfPushesOrDrops : Obligations.TxfPushesOrDrops := fun w s =>
  ⟨fun h => (exec_txfW w s).trans (congrArg _ (State.fifoPush_of_room h)),
   fun h => (exec_txfW w s).trans (congrArg _ (State.fifoPush_of_full h))⟩

/-- Settles O27: PAL_BUSY decides between the start and the locked write. -/
theorem palgenWriteStarts : Obligations.PalgenWriteStarts := fun v s =>
  ⟨fun hb => by rw [exec_palgenW, if_neg (Bool.eq_false_iff.mp hb)]; rfl, fun hb => exec_palgenW_of_busy hb v⟩

/-- Settles O31: each of the five is the locked write of the shared operation. -/
theorem lockedWritesOnlySetBusywr : Obligations.LockedWritesOnlySetBusywr := fun v i _ =>
  ⟨fun hen => ⟨exec_sysclkW_of_enabled hen v, exec_clkcfgW_of_enabled hen v, exec_wrapW_of_enabled hen v,
     exec_imemW_of_enabled hen i v⟩,
   fun hb => exec_palgenW_of_busy hb v⟩

end Sys2Proof.Claims
end

section
/-! PROOFS. The statements of spec/44_color_engine.md: the transfer function in fixed point and the gamma table. -/

namespace Sys2Proof.Machine

/-! ### Integer roots -/

theorem rootSearch_spec (n a : ℕ) : ∀ bits r, r ^ n ≤ a → a < (r + 2 ^ bits) ^ n →
    rootSearch n a bits r ^ n ≤ a ∧ a < (rootSearch n a bits r + 1) ^ n
  | 0, _, hle, hlt => ⟨hle, hlt⟩
  | bits + 1, r, hle, hlt => by
    rw [rootSearch]
    split_ifs with hbit
    · exact rootSearch_spec n a bits _ hbit (by rwa [add_assoc, ← two_mul, ← pow_succ'])
    · exact rootSearch_spec n a bits r hle (not_le.mp hbit)

/-- The integer root is the real root rounded down. -/
theorem intRoot_floor {n : ℕ} (hn : n ≠ 0) {y : ℝ} (hy : 0 ≤ y) (hlt : y < 2 ^ 160) :
    intRoot n ⌊y ^ n⌋₊ = ⌊y⌋₊ := by
  have hstart : ⌊y ^ n⌋₊ < (0 + 2 ^ 160) ^ n := by
    rw [Nat.floor_lt (by positivity)]
    push_cast
    exact pow_lt_pow_left₀ (by linarith) hy hn
  obtain ⟨hle, hgt⟩ := rootSearch_spec n _ 160 0 (by simp [hn]) hstart
  rw [Nat.le_floor_iff (by positivity), Nat.cast_pow, pow_le_pow_iff_left₀ (by positivity) hy hn] at hle
  rw [Nat.floor_lt (by positivity), Nat.cast_pow, pow_lt_pow_iff_left₀ hy (by positivity) hn] at hgt
  exact ((Nat.floor_eq_iff hy).mpr ⟨hle, by exact_mod_cast hgt⟩).symm

theorem fixOne_pos : (0 : ℝ) < fixOne := by norm_num [fixOne]

/-- The integer root of a fixed-point power of `y`, rounded down before or not, is `y` in fixed point. -/
theorem intRoot_eq_floor {n a : ℕ} (hn : n ≠ 0) {y : ℝ} (hy : 0 ≤ y) (hy2 : y ≤ 2) (ha : ⌊(fixOne * y) ^ n⌋₊ = a) :
    intRoot n a = ⌊fixOne * y⌋₊ := by
  rw [← ha]
  refine intRoot_floor hn (by positivity) ?_
  calc fixOne * y ≤ fixOne * 2 := by gcongr
    _ < 2 ^ 160 := by norm_num [fixOne]

/-! ### Stage 1 -/

/-- The power 2.4 is the fifth root of the twelfth power. -/
theorem rpow_two_four_pow_five {x : ℝ} (hx : 0 ≤ x) : (x ^ (2.4 : ℝ)) ^ 5 = x ^ 12 := by
  rw [← Real.rpow_mul_natCast hx, ← Real.rpow_natCast]
  norm_num

theorem refEotf_nonneg {e : ℝ} (he : 0 ≤ e) : 0 ≤ refEotf e := by
  unfold refEotf
  split_ifs <;> positivity

/-- `eotfFix` is the sRGB transfer function rounded down (R168). -/
theorem eotfFix_eq_floor {e : Frac} (hden : 0 < e.den) (hle : e.num ≤ e.den) :
    eotfFix e = ⌊fixOne * refEotf (e.num / e.den)⌋₊ := by
  have hd : (0 : ℝ) < e.den := by exact_mod_cast hden
  have hbranch : (e.num / e.den : ℝ) ≤ 0.04045 ↔ 100000 * e.num ≤ 4045 * e.den := by
    rw [div_le_iff₀ hd, ← @Nat.cast_le ℝ]
    push_cast
    constructor <;> intro h <;> linarith
  by_cases h : 100000 * e.num ≤ 4045 * e.den
  · rw [eotfFix, if_pos h, refEotf, if_pos (hbranch.mpr h), ← Nat.floor_div_eq_div (K := ℝ)]
    congr 1
    push_cast
    field_simp
    ring
  · rw [eotfFix, if_neg h, refEotf, if_neg (mt hbranch.mp h)]
    set x : ℝ := (e.num / e.den + 0.055) / 1.055 with hx
    have hx0 : 0 ≤ x := by positivity
    have hx1 : x ≤ 1 := by
      have : (e.num / e.den : ℝ) ≤ 1 := (div_le_one hd).mpr (by exact_mod_cast hle)
      rw [hx, div_le_one (by norm_num)]
      linarith
    have hpow : (fixOne * x ^ (2.4 : ℝ)) ^ 5
        = ((fixOne ^ 5 * (1000 * e.num + 55 * e.den) ^ 12 : ℕ) : ℝ) / ((1055 * e.den) ^ 12 : ℕ) := by
      have hxq : x = (1000 * e.num + 55 * e.den) / (1055 * e.den) := by
        rw [hx]; field_simp; ring
      rw [mul_pow, rpow_two_four_pow_five hx0, hxq]
      push_cast
      ring
    have hle2 : x ^ (2.4 : ℝ) ≤ 2 := (Real.rpow_le_one hx0 hx1 (by norm_num)).trans one_le_two
    exact intRoot_eq_floor (by norm_num) (by positivity) hle2 (by rw [hpow, Nat.floor_div_eq_div])

end Sys2Proof.Machine

namespace Sys2Proof.Claims

open Sys2Proof.Machine

/-- Each entry of GAMMA_LUT is the transfer function in fixed point, rounded up: the bracket leaves room for the part
below one unit. -/
theorem gammaLut_brackets : ∀ c < 256, 1 ≤ c → ∃ t ∈ gammaLut[c]?,
    t * fixOne < 65535 * eotfFix ⟨2 * c - 1, 510⟩ + fixOne ∧ 65535 * (eotfFix ⟨2 * c - 1, 510⟩ + 1) ≤ t * fixOne := by
  decide +kernel

/-- Settles O55: the transfer function in fixed point is the real one rounded down, so its bracket around each entry
is a bracket of the real value. -/
theorem gammaLutFromTransferFunction : Obligations.GammaLutFromTransferFunction := by
  refine ⟨by decide +kernel, rfl, fun c hc hc' => ?_⟩
  obtain ⟨t, ht, hlow, hhigh⟩ := gammaLut_brackets c (by omega) hc
  have harg : ((c : ℝ) - 1 / 2) / 255 = ((2 * c - 1 : ℕ) : ℝ) / (510 : ℕ) := by
    rw [Nat.cast_sub (by omega)]
    push_cast
    ring
  rw [eotfFix_eq_floor (by norm_num) (by show 2 * c - 1 ≤ 510; omega), ← harg] at hlow hhigh
  set y : ℝ := refEotf (((c : ℝ) - 1 / 2) / 255)
  have hy : 0 ≤ y := by
    have hc1 : (1 : ℝ) ≤ c := by exact_mod_cast hc
    exact refEotf_nonneg (div_nonneg (by linarith) (by norm_num))
  have hbelow := Nat.floor_le (mul_nonneg fixOne_pos.le hy)
  have habove := Nat.lt_floor_add_one (fixOne * y)
  have hlow' : (t * fixOne : ℝ) < 65535 * ⌊fixOne * y⌋₊ + fixOne := by exact_mod_cast hlow
  have hhigh' : 65535 * (⌊fixOne * y⌋₊ + 1 : ℝ) ≤ t * fixOne := by exact_mod_cast hhigh
  have hceil : ⌈65535 * y⌉ = t := by
    rw [Int.ceil_eq_iff]
    constructor
    · refine lt_of_mul_lt_mul_right (a := (fixOne : ℝ)) ?_ fixOne_pos.le
      push_cast
      linarith
    · refine le_of_mul_le_mul_right (a := (fixOne : ℝ)) ?_ fixOne_pos
      push_cast
      linarith
  rw [hceil, Int.toNat_natCast]
  exact ht

end Sys2Proof.Claims
end

section
/-! PROOFS. How far a number of the fixed-point reference is from the real one: the arithmetic, the cube root and the
cube (spec/44_color_engine.md R170, R175). -/

namespace Sys2Proof.Machine

/-! ### Nearness of a fixed-point number to a real one -/

/-- The fixed-point number `z` stands for `x` up to `e` units of 1/10^40. -/
def Near (e : ℕ) (z : ℤ) (x : ℝ) : Prop := |(z : ℝ) - fixOne * x| ≤ e

theorem Near.mono {e e' : ℕ} {z : ℤ} {x : ℝ} (h : Near e z x) (he : e ≤ e') : Near e' z x :=
  le_trans h (by exact_mod_cast he)

theorem Near.of_eq {e : ℕ} {z : ℤ} {x y : ℝ} (h : Near e z x) (hxy : x = y) : Near e z y := hxy ▸ h

theorem Near.add {e e' : ℕ} {z w : ℤ} {x y : ℝ} (hz : Near e z x) (hw : Near e' w y) :
    Near (e + e') (z + w) (x + y) := by
  unfold Near at *
  push_cast
  calc |(z + w : ℝ) - fixOne * (x + y)| = |(z - fixOne * x) + (w - fixOne * y)| := by ring_nf
    _ ≤ e + e' := (abs_add_le _ _).trans (add_le_add hz hw)

theorem Near.const_mul {e : ℕ} {z : ℤ} {x : ℝ} (n : ℤ) (h : Near e z x) : Near (n.natAbs * e) (n * z) (n * x) := by
  unfold Near at *
  push_cast [Nat.cast_natAbs]
  calc |(n * z : ℝ) - fixOne * (n * x)| = |(n : ℝ)| * |z - fixOne * x| := by rw [← abs_mul]; ring_nf
    _ ≤ |(n : ℝ)| * e := by gcongr

theorem Near.neg {e : ℕ} {z : ℤ} {x : ℝ} (h : Near e z x) : Near e (-z) (-x) := by
  simpa using h.const_mul (-1)

theorem Near.sub {e e' : ℕ} {z w : ℤ} {x y : ℝ} (hz : Near e z x) (hw : Near e' w y) :
    Near (e + e') (z - w) (x - y) := by
  simpa only [sub_eq_add_neg] using hz.add hw.neg

/-- A division rounds by less than one unit. -/
theorem Near.ediv {e e' : ℕ} {z : ℤ} {x : ℝ} (d : ℕ) (hd : 0 < d) (h : Near e z x) (he : e ≤ d * e') :
    Near (e' + 1) (z / d) (x / d) := by
  have hd' : (0 : ℝ) < d := by exact_mod_cast hd
  have hround : |((z / d : ℤ) : ℝ) - z / d| ≤ 1 := by
    rw [← Int.floor_intCast (R := ℝ) z, ← Int.floor_div_natCast, Int.floor_intCast, abs_le]
    constructor <;> linarith [Int.floor_le (z / d : ℝ), Int.lt_floor_add_one (z / d : ℝ)]
  have hscaled : |(z / d : ℝ) - fixOne * (x / d)| ≤ e' := by
    rw [mul_div_assoc', ← sub_div, abs_div, abs_of_pos hd', div_le_iff₀ hd']
    exact h.trans (by rw [mul_comm]; exact_mod_cast he)
  unfold Near
  calc |((z / d : ℤ) : ℝ) - fixOne * (x / d)|
      ≤ |((z / d : ℤ) : ℝ) - z / d| + |(z / d : ℝ) - fixOne * (x / d)| := abs_sub_le _ _ _
    _ ≤ ((e' + 1 : ℕ) : ℝ) := by push_cast; linarith

theorem Near.of_mul {e d : ℕ} {z : ℤ} {x : ℝ} (hd : 0 < d) (h : Near (d * e) (d * z) (d * x)) : Near e z x := by
  have hd' : (0 : ℝ) < d := by exact_mod_cast hd
  unfold Near at *
  push_cast at h
  rw [mul_left_comm, ← mul_sub, abs_mul, abs_of_pos hd'] at h
  exact le_of_mul_le_mul_left h hd'

/-- Rounding down errs by less than one unit. -/
theorem near_floor {y : ℝ} (hy : 0 ≤ y) : Near 1 ⌊fixOne * y⌋₊ y := by
  have hle := Nat.floor_le (mul_nonneg fixOne_pos.le hy)
  have hlt := Nat.lt_floor_add_one (fixOne * y)
  unfold Near
  rw [abs_le]
  push_cast
  constructor <;> linarith

/-- One, an integer, stands for itself. -/
theorem near_intCast (n : ℤ) : Near 0 (n * fixOne) n := by
  simp [Near, mul_comm]

/-- The product of two fixed-point numbers, before its division by one. -/
theorem Near.mul {e e' A B : ℕ} {z w : ℤ} {x y : ℝ} (hz : Near e z x) (hw : Near e' w y) (hA : |z| ≤ A * fixOne)
    (hB : |w| ≤ B * fixOne) (he : e * e' ≤ fixOne) :
    Near (fixOne * (A * e' + B * e + 1)) (z * w) (fixOne * (x * y)) := by
  have hA' : |(z : ℝ)| ≤ A * fixOne := by exact_mod_cast hA
  have hB' : |(w : ℝ)| ≤ B * fixOne := by exact_mod_cast hB
  have he' : (e * e' : ℝ) ≤ fixOne := by exact_mod_cast he
  unfold Near at *
  set F : ℝ := (fixOne : ℝ)
  push_cast
  calc |(z * w : ℝ) - F * (F * (x * y))|
      = |z * (w - F * y) + w * (z - F * x) - (z - F * x) * (w - F * y)| := by ring_nf
    _ ≤ |z * (w - F * y)| + |w * (z - F * x)| + |(z - F * x) * (w - F * y)| :=
        (abs_sub _ _).trans (by gcongr; exact abs_add_le _ _)
    _ ≤ A * F * e' + B * F * e + e * e' := by simp only [abs_mul]; gcongr
    _ ≤ F * (A * e' + B * e + 1) := by linarith

/-- A product or a sum of products, divided by one. -/
theorem Near.ediv_one {e e' : ℕ} {z : ℤ} {x : ℝ} (h : Near e z (fixOne * x)) (he : e ≤ fixOne * e') :
    Near (e' + 1) (z / fixOne) x := by
  have := h.ediv fixOne (by decide) he
  rwa [mul_div_cancel_left₀ _ fixOne_pos.ne'] at this

/-! ### Stages 3 and 8: the cube root and the cube -/

/-- Away from 0, the cube root is steep by less than 24. -/
theorem abs_sub_le_of_cubes {r y : ℝ} (hr : 0 ≤ r) (hy : 0 ≤ y) (hlarge : 1 / 24 ≤ y ^ 2) :
    |r - y| ≤ 24 * |r ^ 3 - y ^ 3| := by
  have hfactor : r ^ 3 - y ^ 3 = (r - y) * (r ^ 2 + r * y + y ^ 2) := by ring
  have hslope : 1 / 24 ≤ r ^ 2 + r * y + y ^ 2 := by nlinarith [mul_nonneg hr hy]
  rw [hfactor, abs_mul, abs_of_nonneg (a := r ^ 2 + r * y + y ^ 2) (by linarith)]
  nlinarith [abs_nonneg (r - y)]

theorem rpow_third_pow_three {x : ℝ} (hx : 0 ≤ x) : (x ^ (1 / 3 : ℝ)) ^ 3 = x := by
  rw [← Real.rpow_mul_natCast hx]
  norm_num

/-- Above `eps` the cube root is above 6/29. -/
theorem rpow_third_sq_large {x : ℝ} (hx : refEps < x) : 1 / 24 ≤ (x ^ (1 / 3 : ℝ)) ^ 2 := by
  have hx0 : 0 ≤ x := le_trans (by norm_num [refEps]) hx.le
  have hcube : (6 / 29 : ℝ) ^ 3 < (x ^ (1 / 3 : ℝ)) ^ 3 := by
    rw [rpow_third_pow_three hx0]
    exact lt_of_eq_of_lt (by norm_num [refEps]) hx
  have hlarge : (6 / 29 : ℝ) < x ^ (1 / 3 : ℝ) := lt_of_pow_lt_pow_left₀ 3 (by positivity) hcube
  nlinarith

/-- Above `eps` the cube root stretches a distance less than 24 times. -/
theorem abs_rpow_third_sub_le {t x : ℝ} (ht : 0 ≤ t) (hx : refEps < x) :
    |t ^ (1 / 3 : ℝ) - x ^ (1 / 3 : ℝ)| ≤ 24 * |t - x| := by
  have hx0 : 0 ≤ x := le_trans (by norm_num [refEps]) hx.le
  have hcubes := abs_sub_le_of_cubes (r := t ^ (1 / 3 : ℝ)) (by positivity) (by positivity) (rpow_third_sq_large hx)
  rwa [rpow_third_pow_three ht, rpow_third_pow_three hx0] at hcubes

/-- What stands for numbers above `eps` by more than the error, so that both sides take the same branch of `f` or
`finv`. -/
abbrev AboveEps (e : ℕ) (t : ℤ) : Prop := 216 * fixOne + 24389 * e < 24389 * t

theorem AboveEps.branch {e : ℕ} {t : ℤ} (h : AboveEps e t) : 216 * (fixOne : ℤ) < 24389 * t := by
  unfold AboveEps at h
  omega

theorem Near.refEps_lt {e : ℕ} {t : ℤ} {x : ℝ} (h : Near e t x) (ht : AboveEps e t) : refEps < x := by
  have ht' : (216 * fixOne + 24389 * e : ℝ) < 24389 * t := by exact_mod_cast ht
  have hx := (abs_le.mp h).2
  refine lt_of_mul_lt_mul_left (a := (fixOne : ℝ)) ?_ fixOne_pos.le
  unfold refEps
  linarith

/-- On its cube root branch, `labFix` is the cube root rounded down. -/
theorem labFix_eq_floor {m : ℕ} (hbranch : 216 * (fixOne : ℤ) < 24389 * m) (hle : m ≤ 2 * fixOne) :
    labFix m = ⌊fixOne * (m / fixOne : ℝ) ^ (1 / 3 : ℝ)⌋₊ := by
  set r := (m / fixOne : ℝ) ^ (1 / 3 : ℝ) with hr
  have hr3 : r ^ 3 = m / fixOne := rpow_third_pow_three (by positivity)
  have hr2 : r ≤ 2 := by
    refine le_of_pow_le_pow_left₀ (n := 3) (by norm_num) (by norm_num) ?_
    rw [hr3, div_le_iff₀ fixOne_pos]
    have : (m : ℝ) ≤ 2 * fixOne := by exact_mod_cast hle
    linarith [fixOne_pos]
  have hpow : (fixOne * r) ^ 3 = ((m * fixOne ^ 2 : ℕ) : ℝ) := by
    have := fixOne_pos.ne'
    rw [mul_pow, hr3]
    push_cast
    field_simp
  rw [labFix, if_pos hbranch, Int.toNat_natCast,
    intRoot_eq_floor three_ne_zero (by positivity) hr2 (by rw [hpow, Nat.floor_natCast])]

/-- `f` of stage 3 on its cube root branch. -/
theorem Near.labFix {e : ℕ} {t : ℤ} {x : ℝ} (h : Near e t x) (ht : AboveEps e t) (hle : t ≤ 2 * fixOne) :
    Near (24 * e + 1) (labFix t) (refF x) := by
  obtain ⟨m, rfl⟩ := Int.eq_ofNat_of_zero_le (show 0 ≤ t by have := ht.branch; omega)
  have hx := h.refEps_lt ht
  set r := (m / fixOne : ℝ) ^ (1 / 3 : ℝ)
  have hclose : |fixOne * r - fixOne * x ^ (1 / 3 : ℝ)| ≤ 24 * e := by
    rw [← mul_sub, abs_mul, abs_of_pos fixOne_pos]
    calc fixOne * |r - x ^ (1 / 3 : ℝ)| ≤ fixOne * (24 * |m / fixOne - x|) := by
          gcongr
          exact abs_rpow_third_sub_le (by positivity) hx
      _ = 24 * |(m : ℝ) - fixOne * x| := by
          rw [div_sub' fixOne_pos.ne', abs_div, abs_of_pos fixOne_pos]
          field_simp [fixOne_pos.ne']
      _ ≤ 24 * e := by gcongr; exact h
  rw [labFix_eq_floor ht.branch (by exact_mod_cast hle), refF, if_pos hx]
  calc |(⌊fixOne * r⌋₊ : ℤ) - fixOne * x ^ (1 / 3 : ℝ)| ≤ _ := abs_sub_le _ (fixOne * r) _
    _ ≤ ((1 : ℕ) + 24 * e : ℝ) := add_le_add (near_floor (by positivity)) hclose
    _ = ((24 * e + 1 : ℕ) : ℝ) := by push_cast; ring

/-- `finv` of stage 8 on its cube branch. -/
theorem Near.labInvFix {e : ℕ} {u : ℤ} {x : ℝ} (h : Near e u x) (h0 : 0 ≤ u) (hle : u ≤ 2 * fixOne)
    (habove : AboveEps (12 * e + 6) (u * u / fixOne * u / fixOne)) (he : (4 * e + 2) * e ≤ fixOne) :
    Near (12 * e + 6) (labInvFix u) (refFinv x) := by
  have habs : |u| ≤ (2 : ℕ) * fixOne := by rw [abs_of_nonneg h0]; exact hle
  have hsq : Near (4 * e + 2) (u * u / fixOne) (x * x) :=
    ((h.mul h habs habs (by nlinarith)).ediv_one le_rfl).mono (by omega)
  have hsqabs : |u * u / fixOne| ≤ (4 : ℕ) * fixOne := by
    have hF : (0 : ℤ) < fixOne := by decide
    rw [abs_of_nonneg (Int.ediv_nonneg (mul_self_nonneg u) hF.le)]
    exact Int.ediv_le_of_le_mul hF (by push_cast; nlinarith)
  have hcube : Near (12 * e + 6) (u * u / fixOne * u / fixOne) (x ^ 3) := by
    rw [pow_three']
    exact ((hsq.mul h hsqabs habs he).ediv_one le_rfl).mono (by omega)
  rw [Machine.labInvFix, if_pos habove.branch, refFinv, if_pos (hcube.refEps_lt habove)]
  exact hcube

end Sys2Proof.Machine
end

section
/-! PROOFS. The hue rotation: the polar form of the reference is the plane rotation of R179, and the power series of the
twelve hues of this hardware are near their cosines and sines. -/

namespace Sys2Proof.Machine

/-! ### Stages 4, 6 and 7: the rotation -/

theorem cos_radians_mod360 (x : ℝ) : Real.cos (radians (mod360 x)) = Real.cos (radians x) := by
  rw [← Real.cos_sub_int_mul_two_pi (radians x) ⌊x / 360⌋]
  congr 1
  unfold radians mod360
  ring

theorem sin_radians_mod360 (x : ℝ) : Real.sin (radians (mod360 x)) = Real.sin (radians x) := by
  rw [← Real.sin_sub_int_mul_two_pi (radians x) ⌊x / 360⌋]
  congr 1
  unfold radians mod360
  ring

theorem radians_add (x y : ℝ) : radians (x + y) = radians x + radians y := by
  unfold radians; ring

theorem radians_degrees (a : ℝ) : radians (a * 180 / Real.pi) = a := by
  have := Real.pi_ne_zero
  unfold radians
  field_simp

theorem refChroma_eq_norm (c : Config) : refChroma c = ‖(⟨refA c, refB c⟩ : ℂ)‖ := by
  rw [refChroma, Complex.norm_def, Complex.normSq_mk, sq, sq]

theorem refChroma_mul_cos_hue (c : Config) : refChroma c * Real.cos (radians (refHue c)) = refA c := by
  rw [refChroma_eq_norm, refHue, cos_radians_mod360, radians_degrees, Complex.norm_mul_cos_arg]

theorem refChroma_mul_sin_hue (c : Config) : refChroma c * Real.sin (radians (refHue c)) = refB c := by
  rw [refChroma_eq_norm, refHue, sin_radians_mod360, radians_degrees, Complex.norm_mul_sin_arg]

/-- The polar form of `a` of palette colour `k` is a rotation (R179). -/
theorem refAAt_eq_rotation (c : Config) (k : ℕ) : refAAt c k
    = refA c * Real.cos (radians (k * (360 / c.nLeds))) - refB c * Real.sin (radians (k * (360 / c.nLeds))) := by
  rw [refAAt, refHueAt, cos_radians_mod360, radians_add, Real.cos_add, mul_sub, ← mul_assoc, ← mul_assoc,
    refChroma_mul_cos_hue, refChroma_mul_sin_hue]

/-- The polar form of `b` of palette colour `k` is a rotation (R179). -/
theorem refBAt_eq_rotation (c : Config) (k : ℕ) : refBAt c k
    = refA c * Real.sin (radians (k * (360 / c.nLeds))) + refB c * Real.cos (radians (k * (360 / c.nLeds))) := by
  rw [refBAt, refHueAt, sin_radians_mod360, radians_add, Real.sin_add, mul_add, ← mul_assoc, ← mul_assoc,
    refChroma_mul_cos_hue, refChroma_mul_sin_hue, add_comm]

/-- `2 ^ k` times the cosine and the sine of `k` twelfths of a turn: the powers of `√3 + i`. -/
def twelfths : ℕ → (ℤ√3) × (ℤ√3)
  | 0 => (1, 0)
  | k + 1 => (⟨0, 1⟩ * (twelfths k).1 - (twelfths k).2, ⟨0, 1⟩ * (twelfths k).2 + (twelfths k).1)

theorem toReal_eq_re_add_im (m : ℤ√3) : Zsqrtd.toReal (by norm_num) m = m.re + m.im * √3 := by
  simp

theorem toReal_sqrt_three : Zsqrtd.toReal (d := 3) (by norm_num) ⟨0, 1⟩ = √3 := by
  simp

/-- A step of a twelfth of a turn is a product with `√3 + i` (the addition theorems). -/
theorem twelfths_toReal (k : ℕ) :
    2 ^ k * Real.cos (k * (Real.pi / 6)) = Zsqrtd.toReal (d := 3) (by norm_num) (twelfths k).1
    ∧ 2 ^ k * Real.sin (k * (Real.pi / 6)) = Zsqrtd.toReal (d := 3) (by norm_num) (twelfths k).2 := by
  induction k with
  | zero => simp [twelfths]
  | succ k ih =>
    obtain ⟨hcos, hsin⟩ := ih
    simp only [twelfths, map_sub, map_add, map_mul, toReal_sqrt_three, ← hcos, ← hsin, Nat.cast_succ, add_mul, one_mul,
      Real.cos_add, Real.sin_add, Real.cos_pi_div_six, Real.sin_pi_div_six]
    constructor <;> ring

/-- The square root of 3 in fixed point. -/
def fixSqrtThree : ℕ := intRoot 2 (3 * fixOne ^ 2)

theorem near_fixSqrtThree : Near 1 fixSqrtThree √3 := by
  have hle2 : √3 ≤ 2 := Real.sqrt_le_iff.mpr (by norm_num)
  have hsq : (fixOne * √3) ^ 2 = ((3 * fixOne ^ 2 : ℕ) : ℝ) := by
    rw [mul_pow, Real.sq_sqrt (by norm_num)]
    push_cast
    ring
  rw [fixSqrtThree, intRoot_eq_floor two_ne_zero (Real.sqrt_nonneg 3) hle2 (by rw [hsq, Nat.floor_natCast])]
  exact near_floor (Real.sqrt_nonneg 3)

/-- `z` is within `e` units of the number `m / d`, the rounding of the square root of 3 included. -/
abbrev NearSqrtThree (e d : ℕ) (z : ℤ) (m : ℤ√3) : Prop :=
  |d * z - (m.re * fixOne + m.im * fixSqrtThree)| + |m.im| ≤ (d * e : ℕ)

theorem near_of_nearSqrtThree {e d : ℕ} {z : ℤ} {m : ℤ√3} {x : ℝ} (hd : 0 < d) (h : NearSqrtThree e d z m)
    (hx : d * x = Zsqrtd.toReal (d := 3) (by norm_num) m) : Near e z x := by
  have hm : Near m.im.natAbs (m.re * fixOne + m.im * fixSqrtThree) (d * x) := by
    rw [hx, toReal_eq_re_add_im]
    exact ((near_intCast m.re).add (near_fixSqrtThree.const_mul m.im)).mono (by omega)
  refine Near.of_mul hd ?_
  have hreal : |(d * z : ℤ) - ((m.re * fixOne + m.im * fixSqrtThree : ℤ) : ℝ)| + m.im.natAbs ≤ (d * e : ℕ) := by
    rw [Nat.cast_natAbs]
    exact_mod_cast (show |d * z - (m.re * fixOne + m.im * fixSqrtThree)| + |m.im| ≤ (d * e : ℕ) from h)
  calc |((d * z : ℤ) : ℝ) - fixOne * (d * x)| ≤ _ := abs_sub_le _ ((m.re * fixOne + m.im * fixSqrtThree : ℤ) : ℝ) _
    _ ≤ _ := add_le_add_right hm _
    _ ≤ (d * e : ℕ) := hreal

/-- The power series of twelve hues, against the powers of `√3 + i`. -/
theorem hueCos_hueSin_twelfths : ∀ k < 12, NearSqrtThree 100 (2 ^ k) (hueCos 12 k) (twelfths k).1
    ∧ NearSqrtThree 100 (2 ^ k) (hueSin 12 k) (twelfths k).2 := by
  decide +kernel

theorem radians_twelfth (k : ℕ) : radians (k * (360 / (12 : ℕ))) = k * (Real.pi / 6) := by
  unfold radians
  push_cast
  ring

theorem near_hueCos {k : ℕ} (hk : k < 12) : Near 100 (hueCos 12 k) (Real.cos (radians (k * (360 / (12 : ℕ))))) := by
  rw [radians_twelfth]
  exact near_of_nearSqrtThree (by positivity) (hueCos_hueSin_twelfths k hk).1 (by exact_mod_cast (twelfths_toReal k).1)

theorem near_hueSin {k : ℕ} (hk : k < 12) : Near 100 (hueSin 12 k) (Real.sin (radians (k * (360 / (12 : ℕ))))) := by
  rw [radians_twelfth]
  exact near_of_nearSqrtThree (by positivity) (hueCos_hueSin_twelfths k hk).2 (by exact_mod_cast (twelfths_toReal k).2)

end Sys2Proof.Machine
end

section
/-! PROOFS. Each stage of the reference function in fixed point keeps near the stage over the real numbers (R168 to
R176). -/

namespace Sys2Proof.Machine

/-! ### The stages on triples -/

/-- The fixed-point triple `t` stands for the real triple `x` up to `e` units. -/
structure NearTriple (e : ℕ) (t : Triple) (x : Fin 3 → ℝ) : Prop where
  u : Near e t.u (x 0)
  v : Near e t.v (x 1)
  w : Near e t.w (x 2)

theorem NearTriple.mono {e e' : ℕ} {t : Triple} {x : Fin 3 → ℝ} (h : NearTriple e t x) (he : e ≤ e') :
    NearTriple e' t x :=
  ⟨h.u.mono he, h.v.mono he, h.w.mono he⟩

theorem NearTriple.channel {e : ℕ} {t : Triple} {x : Fin 3 → ℝ} (h : NearTriple e t x) (ch : Channel) :
    Near e (t.channel ch) (x (Channel.index ch)) := by
  cases ch
  · exact h.u
  · exact h.v
  · exact h.w

theorem mulVec_three (A : Matrix (Fin 3) (Fin 3) ℝ) (x : Fin 3 → ℝ) (i : Fin 3) :
    A.mulVec x i = A i 0 * x 0 + A i 1 * x 1 + A i 2 * x 2 := by
  simp [Matrix.mulVec, dotProduct, Fin.sum_univ_three]

/-- One row of a matrix of integers times a triple. -/
theorem NearTriple.row {e : ℕ} {t : Triple} {x : Fin 3 → ℝ} (h : NearTriple e t x) (a b c : ℤ) :
    Near ((a.natAbs + b.natAbs + c.natAbs) * e) (a * t.u + b * t.v + c * t.w) (a * x 0 + b * x 1 + c * x 2) := by
  simpa only [add_mul] using ((h.u.const_mul a).add (h.v.const_mul b)).add (h.w.const_mul c)

/-- Stage 1 (R168) rounds once. -/
theorem near_eotfFix {e : Frac} (h : Config.fracInUnit e = true) : Near 1 (eotfFix e) (refEotf (e.num / e.den)) := by
  simp only [Config.fracInUnit, Bool.and_eq_true, decide_eq_true_eq] at h
  obtain ⟨hden, hle⟩ := h
  rw [eotfFix_eq_floor hden hle]
  exact near_floor (refEotf_nonneg (by positivity))

theorem near_baseLinear {c : Config} (hr : Config.fracInUnit c.baseR = true) (hg : Config.fracInUnit c.baseG = true)
    (hb : Config.fracInUnit c.baseB = true) : NearTriple 1 (baseLinear c) fun i => refEotf (refBase c i) :=
  ⟨near_eotfFix hr, near_eotfFix hg, near_eotfFix hb⟩

/-- Stage 2 (R169). -/
theorem NearTriple.rgbToXyz {e : ℕ} {t : Triple} {x : Fin 3 → ℝ} (h : NearTriple e t x) :
    NearTriple (2 * e + 1) (rgbToXyz t) (refMatrix.mulVec x) := by
  refine ⟨((h.row 4124564 3575761 1804375).ediv 10000000 (by norm_num) (e' := 2 * e) ?_).of_eq ?_,
    ((h.row 2126729 7151522 721750).ediv 10000000 (by norm_num) (e' := 2 * e) ?_).of_eq ?_,
    ((h.row 193339 1191920 9503041).ediv 10000000 (by norm_num) (e' := 2 * e) ?_).of_eq ?_⟩
  case refine_1 | refine_3 | refine_5 => norm_num; omega
  all_goals
    rw [mulVec_three]
    simp [refMatrix]
    ring

/-- What `labFix` takes on its cube root branch, the error included. -/
abbrev RootReady (e : ℕ) (t : ℤ) : Prop := AboveEps e t ∧ t ≤ 2 * fixOne

/-- `f` of stage 3 on a component that is first divided by that of the white point. -/
theorem Near.labFix_white {e n : ℕ} {t : ℤ} {x white : ℝ} (h : Near e t x) (hn : 50000 ≤ n)
    (hwhite : white = n / 100000) (ht : RootReady (2 * e + 1) (t * 100000 / n)) :
    Near (48 * e + 25) (Machine.labFix (t * 100000 / n)) (refF (x / white)) := by
  have hratio : Near (2 * e + 1) (t * 100000 / n) (x / white) := by
    rw [mul_comm t]
    refine ((h.const_mul 100000).ediv n (by omega) (e' := 2 * e) (by norm_num; nlinarith)).of_eq ?_
    rw [hwhite, div_div_eq_mul_div, mul_comm x]
    norm_num
  exact (hratio.labFix ht.1 ht.2).mono (by omega)

/-- Stage 3 (R170). -/
theorem NearTriple.xyzToLab {e : ℕ} {t : Triple} {c : Config} (h : NearTriple e t (refXyz c))
    (hu : RootReady (2 * e + 1) (t.u * 100000 / 95047)) (hv : RootReady (2 * e + 1) t.v)
    (hw : RootReady (2 * e + 1) (t.w * 100000 / 108883)) :
    NearTriple (1000 * (48 * e + 25)) (xyzToLab t) ![refL c, refA c, refB c] := by
  have near_x : Near (48 * e + 25) (labFix (t.u * 100000 / 95047)) (refFxyz c 0) :=
    h.u.labFix_white (n := 95047) (by norm_num) (by norm_num [refWhite]) hu
  have near_y : Near (48 * e + 25) (labFix t.v) (refFxyz c 1) := by
    have hratio : Near (2 * e + 1) t.v (refXyz c 1 / refWhite 1) := by
      simpa [refWhite] using h.v.mono (show e ≤ 2 * e + 1 by omega)
    exact (hratio.labFix hv.1 hv.2).mono (by omega)
  have near_z : Near (48 * e + 25) (labFix (t.w * 100000 / 108883)) (refFxyz c 2) :=
    h.w.labFix_white (n := 108883) (by norm_num) (by simp [refWhite]; norm_num) hw
  refine ⟨?_, ?_, ?_⟩
  · exact ((near_y.const_mul 116).sub (near_intCast 16)).mono (by norm_num)
  · exact ((near_x.sub near_y).const_mul 500).mono (by norm_num; omega)
  · exact ((near_y.sub near_z).const_mul 200).mono (by norm_num; omega)

/-- Stage 5 (R172). -/
theorem NearTriple.darkenLab {e : ℕ} {t : Triple} {x : Fin 3 → ℝ} {d : Frac} (h : NearTriple e t x)
    (hd : Config.fracInUnit d = true) : NearTriple (e + 1) (darkenLab d t) ![d.num / d.den * x 0, x 1, x 2] := by
  simp only [Config.fracInUnit, Bool.and_eq_true, decide_eq_true_eq] at hd
  obtain ⟨hden, hle⟩ := hd
  refine ⟨?_, h.v.mono (by omega), h.w.mono (by omega)⟩
  have := (h.u.const_mul d.num).ediv d.den hden (e' := e) (Nat.mul_le_mul_right e (by simpa using hle))
  rwa [mul_div_right_comm] at this

/-- Stages 4, 6 and 7 in the form of R179. -/
theorem NearTriple.rotateHue {e e' n k : ℕ} {t : Triple} {x : Fin 3 → ℝ} {cos sin : ℝ} (h : NearTriple e t x)
    (hcos : Near e' (hueCos n k) cos) (hsin : Near e' (hueSin n k) sin)
    (hv : |t.v| ≤ 100 * fixOne) (hw : |t.w| ≤ 100 * fixOne) (hcos2 : |hueCos n k| ≤ 2 * fixOne)
    (hsin2 : |hueSin n k| ≤ 2 * fixOne) (he : e * e' ≤ fixOne) :
    NearTriple (200 * e' + 4 * e + 3) (rotateHue n k t) ![x 0, x 1 * cos - x 2 * sin, x 1 * sin + x 2 * cos] := by
  have near_ac := h.v.mul hcos (A := 100) (B := 2) hv hcos2 he
  have near_as := h.v.mul hsin (A := 100) (B := 2) hv hsin2 he
  have near_bc := h.w.mul hcos (A := 100) (B := 2) hw hcos2 he
  have near_bs := h.w.mul hsin (A := 100) (B := 2) hw hsin2 he
  exact ⟨h.u.mono (by omega), ((near_ac.sub near_bs).of_eq (mul_sub _ _ _).symm).ediv_one (le_of_eq (by ring)),
    ((near_as.add near_bc).of_eq (mul_add _ _ _).symm).ediv_one (le_of_eq (by ring))⟩

/-- What `labInvFix` takes on its cube branch, the error included. -/
abbrev CubeReady (e : ℕ) (u : ℤ) : Prop :=
  0 ≤ u ∧ u ≤ 2 * fixOne ∧ AboveEps (12 * e + 6) (u * u / fixOne * u / fixOne)

/-- Stage 8 (R175). -/
theorem NearTriple.labToXyz {e : ℕ} {t : Triple} {L a b : ℝ} (h : NearTriple e t ![L, a, b])
    (hy : CubeReady (2 * e + 2) ((t.u + 16 * fixOne) / 116))
    (hx : CubeReady (2 * e + 2) ((t.u + 16 * fixOne) / 116 + t.v / 500))
    (hz : CubeReady (2 * e + 2) ((t.u + 16 * fixOne) / 116 - t.w / 200)) (he : (8 * e + 10) * (2 * e + 2) ≤ fixOne) :
    NearTriple (48 * e + 61) (labToXyz t) ![0.95047 * refFinv ((L + 16) / 116 + a / 500), refFinv ((L + 16) / 116),
      1.08883 * refFinv ((L + 16) / 116 - b / 200)] := by
  have near_y : Near (e + 1) ((t.u + 16 * fixOne) / 116) ((L + 16) / 116) :=
    (h.u.add (near_intCast 16)).ediv 116 (by norm_num) (by omega)
  have near_a : Near (e + 1) (t.v / 500) (a / 500) := h.v.ediv 500 (by norm_num) (by omega)
  have near_b : Near (e + 1) (t.w / 200) (b / 200) := h.w.ediv 200 (by norm_num) (by omega)
  have cube {u : ℤ} {x : ℝ} (hu : CubeReady (2 * e + 2) u) (hn : Near (2 * e + 2) u x) :
      Near (24 * e + 30) (labInvFix u) (refFinv x) :=
    (hn.labInvFix hu.1 hu.2.1 hu.2.2 (by linarith)).mono (by omega)
  refine ⟨?_, (cube hy (near_y.mono (by omega))).mono (by omega), ?_⟩
  · exact (((cube hx ((near_y.add near_a).mono (by omega))).const_mul 95047).ediv 100000 (by norm_num)
      (e' := 48 * e + 60) (by norm_num; omega)).of_eq (by simp; ring)
  · exact (((cube hz ((near_y.sub near_b).mono (by omega))).const_mul 108883).ediv 100000 (by norm_num)
      (e' := 48 * e + 60) (by norm_num; omega)).of_eq (by simp; ring)

/-- The inverse of `M` (R176): the adjugate over the determinant. -/
theorem refMatrix_inv : refMatrix⁻¹ = (10000000 / 207072592935094650199 : ℝ) •
    !![67100938518402, -31829932739201, -10323222007000;
       -20070850459639, 38847044740999, 860512572375;
       1152222717722, -4224816266901, 21892235570639] := by
  apply Matrix.inv_eq_right_inv
  ext i j
  fin_cases i <;> fin_cases j <;> simp [refMatrix, Matrix.mul_apply, Fin.sum_univ_three] <;> norm_num

/-- The model's rows of the inverse, in numbers. -/
theorem xyzToRgb_eq (t : Triple) : xyzToRgb t =
    ⟨10000000 * (67100938518402 * t.u + -31829932739201 * t.v + -10323222007000 * t.w) / 207072592935094650199,
     10000000 * (-20070850459639 * t.u + 38847044740999 * t.v + 860512572375 * t.w) / 207072592935094650199,
     10000000 * (1152222717722 * t.u + -4224816266901 * t.v + 21892235570639 * t.w) / 207072592935094650199⟩ :=
  rfl

/-- Stage 9 (R176). -/
theorem NearTriple.xyzToRgb {e : ℕ} {t : Triple} {x : Fin 3 → ℝ} (h : NearTriple e t x) :
    NearTriple (6 * e + 1) (xyzToRgb t) (refMatrix⁻¹.mulVec x) := by
  rw [xyzToRgb_eq, refMatrix_inv]
  refine ⟨(((h.row 67100938518402 (-31829932739201) (-10323222007000)).const_mul 10000000).ediv
      207072592935094650199 (by norm_num) (e' := 6 * e) ?_).of_eq ?_,
    (((h.row (-20070850459639) 38847044740999 860512572375).const_mul 10000000).ediv
      207072592935094650199 (by norm_num) (e' := 6 * e) ?_).of_eq ?_,
    (((h.row 1152222717722 (-4224816266901) 21892235570639).const_mul 10000000).ediv
      207072592935094650199 (by norm_num) (e' := 6 * e) ?_).of_eq ?_⟩
  case refine_1 | refine_3 | refine_5 => norm_num; omega
  all_goals
    rw [mulVec_three]
    simp
    ring

end Sys2Proof.Machine
end

section
/-! PROOFS. The statements of spec/44_color_engine.md: the range of LIN16 and its distance from the reference. -/

namespace Sys2Proof.Machine

/-! ### This hardware -/

/-- `L*a*b*` of the darkened base colour of this hardware, in fixed point. -/
def wsencLab : Triple := darkenLab wsenc.darken (xyzToLab (rgbToXyz (baseLinear wsenc)))

theorem wsenc_rootReady : RootReady 7 ((rgbToXyz (baseLinear wsenc)).u * 100000 / 95047)
    ∧ RootReady 7 (rgbToXyz (baseLinear wsenc)).v
    ∧ RootReady 7 ((rgbToXyz (baseLinear wsenc)).w * 100000 / 108883) := by
  decide +kernel

theorem near_wsencLab : NearTriple 200000 wsencLab ![refDarkL wsenc, refA wsenc, refB wsenc] := by
  have near_base : NearTriple 1 (baseLinear wsenc) _ := near_baseLinear (by decide) (by decide) (by decide)
  obtain ⟨hu, hv, hw⟩ := wsenc_rootReady
  exact ((near_base.rgbToXyz.xyzToLab hu hv hw).darkenLab (by decide)).mono (by norm_num)

theorem wsenc_rotateHue_small : |wsencLab.v| ≤ 100 * fixOne ∧ |wsencLab.w| ≤ 100 * fixOne
    ∧ ∀ k < 12, |hueCos 12 k| ≤ 2 * fixOne ∧ |hueSin 12 k| ≤ 2 * fixOne := by
  decide +kernel

theorem near_wsenc_rotateHue {k : ℕ} (hk : k < 12) :
    NearTriple 1000000 (rotateHue 12 k wsencLab) ![refDarkL wsenc, refAAt wsenc k, refBAt wsenc k] := by
  obtain ⟨hv, hw, hhue⟩ := wsenc_rotateHue_small
  obtain ⟨hcos, hsin⟩ := hhue k hk
  rw [refAAt_eq_rotation, refBAt_eq_rotation]
  exact (near_wsencLab.rotateHue (near_hueCos hk) (near_hueSin hk) hv hw hcos hsin (by decide)).mono (by norm_num)

theorem wsenc_cubeReady : ∀ k < 12,
    CubeReady 2000002 (((rotateHue 12 k wsencLab).u + 16 * fixOne) / 116)
    ∧ CubeReady 2000002 (((rotateHue 12 k wsencLab).u + 16 * fixOne) / 116 + (rotateHue 12 k wsencLab).v / 500)
    ∧ CubeReady 2000002 (((rotateHue 12 k wsencLab).u + 16 * fixOne) / 116 - (rotateHue 12 k wsencLab).w / 200) := by
  decide +kernel

/-- The reference of this hardware in fixed point is right to 31 digits after the point. -/
theorem near_wsenc_refLinFix {k : ℕ} (hk : k < 12) : NearTriple 1000000000 (refLinFix wsenc k) (refLin wsenc k) := by
  obtain ⟨hy, hx, hz⟩ := wsenc_cubeReady k hk
  have near_xyz : NearTriple 48000061 (labToXyz (rotateHue 12 k wsencLab)) (refXyzAt wsenc k) :=
    (near_wsenc_rotateHue hk).labToXyz hy hx hz (by decide)
  exact near_xyz.xyzToRgb.mono (by norm_num)

/-! ### The contract of R181 -/

/-- The gamut clamp in fixed point is that of the real numbers. -/
theorem clampFix_cast (v : ℤ) : (clampFix v : ℝ) = max 0 (min (fixOne : ℝ) v) := by
  simp [clampFix]

theorem fixOne_mul_refClamped (c : Config) (k : ℕ) (ch : Channel) :
    fixOne * refClamped c k ch = max 0 (min (fixOne : ℝ) (fixOne * refLin c k (Channel.index ch))) := by
  rw [refClamped, mul_max_of_nonneg _ _ fixOne_pos.le, mul_min_of_nonneg _ _ fixOne_pos.le, mul_zero, mul_one]

/-- With an error of `e` units in the reference, both ends of the range of LIN16 still meet the bound. -/
abbrev RangeSettled (e : ℕ) (c : Config) (k : ℕ) (ch : Channel) : Prop :=
  lin16Low c k ch ≤ lin16High c k ch
  ∧ lin16High c k ch * fixOne ≤ 65535 * clampFix ((refLinFix c k).channel ch - e) + c.colorEps * fixOne
  ∧ 65535 * clampFix ((refLinFix c k).channel ch + e) ≤ lin16Low c k ch * fixOne + c.colorEps * fixOne

/-- LIN16 of the model meets the contract where the range is settled, whatever the free choice. -/
theorem linAdmitted_lin16 {e : ℕ} {c : Config} {k : ℕ} {ch : Channel}
    (hnear : Near e ((refLinFix c k).channel ch) (refLin c k (Channel.index ch))) (hset : RangeSettled e c k ch) :
    LinAdmitted c k ch (lin16 c k ch) := by
  obtain ⟨hle, hhigh, hlow⟩ := hset
  set z := (refLinFix c k).channel ch
  have low_le : (lin16Low c k ch : ℝ) ≤ lin16 c k ch := by exact_mod_cast lin16Low_le c k ch
  have le_high : (lin16 c k ch : ℝ) ≤ lin16High c k ch := by exact_mod_cast lin16_le_high hle
  have hhigh' : (lin16High c k ch * fixOne : ℝ) ≤ 65535 * clampFix (z - e) + c.colorEps * fixOne := by
    exact_mod_cast hhigh
  have hlow' : (65535 * clampFix (z + e) : ℝ) ≤ lin16Low c k ch * fixOne + c.colorEps * fixOne := by
    exact_mod_cast hlow
  obtain ⟨hbelow, habove⟩ := abs_le.mp hnear
  have clamp_le : (clampFix (z - e) : ℝ) ≤ fixOne * refClamped c k ch := by
    rw [clampFix_cast, fixOne_mul_refClamped]
    gcongr
    push_cast
    linarith
  have le_clamp : fixOne * refClamped c k ch ≤ clampFix (z + e) := by
    rw [clampFix_cast, fixOne_mul_refClamped]
    gcongr
    push_cast
    linarith
  refine ⟨(lin16_le_high hle).trans (min_le_left _ _), abs_le.mpr ⟨?_, ?_⟩⟩
  · refine le_of_mul_le_mul_right (a := (fixOne : ℝ)) ?_ fixOne_pos
    nlinarith [fixOne_pos]
  · refine le_of_mul_le_mul_right (a := (fixOne : ℝ)) ?_ fixOne_pos
    nlinarith [fixOne_pos]

theorem wsenc_rangeSettled : ∀ k < 12, ∀ ch ∈ [Channel.r, .g, .b], RangeSettled 1000000000 wsenc k ch := by
  decide +kernel

end Sys2Proof.Machine

namespace Sys2Proof.Claims

open Sys2Proof.Machine

/-- Settles O56: the reference in fixed point is so near the real one that both ends of the range of LIN16
still meet the bound, and the free choice stays between them. -/
theorem lin16WithinColorEps : Obligations.Lin16WithinColorEps := by
  intro k ch hk
  have hset := wsenc_rangeSettled k hk ch (by cases ch <;> decide)
  exact linAdmitted_lin16 ((near_wsenc_refLinFix hk).channel ch) hset

end Sys2Proof.Claims
end

section
/-! PROOFS. The statements of spec/60_exceptions.md: the tick that fetches a reserved word, and fault entry with the cycle
after it. -/

namespace Sys2Proof.Machine

/-! ### ENC outside its ticks -/

theorem SameEnc.trans {s t u : State} (hst : SameEnc s t) (htu : SameEnc t u) : SameEnc s u := by
  obtain ⟨hx, hxWritten, hpc, hdelay, hosr, hcount, hoe⟩ := hst
  obtain ⟨hx', hxWritten', hpc', hdelay', hosr', hcount', hoe'⟩ := htu
  exact ⟨hx'.trans hx, hxWritten'.trans hxWritten, hpc'.trans hpc, hdelay'.trans hdelay, hosr'.trans hosr,
    hcount'.trans hcount, hoe'.trans hoe⟩

theorem HostEffect.sameEnc {s h : State} (eff : HostEffect s h) : SameEnc s h :=
  ⟨eff.x_eq, eff.xWritten_eq, eff.pc_eq, eff.delayCtr_eq, eff.osr_eq, eff.osrCount_eq, eff.wsOe_eq⟩

theorem sameEnc_closeCycle (s h e : State) : SameEnc e (closeCycle s h e) := by
  rw [closeCycle_eq]
  exact ⟨rfl, rfl, rfl, rfl, rfl, rfl, rfl⟩

theorem State.isTick_of_disabled {s : State} (h : s.en = false) : s.isTick = false := by
  rw [State.isTick, tickNow, h, Bool.false_and]

/-- In a cycle that is no tick ENC is frozen, and EN, the pin and FAULT are what the host leaves. -/
theorem step_of_no_tick {s t : State} (hr : s.nextPort.rstN = true) (htick : s.isTick = false)
    (h : step s = .next t) :
    SameEnc s t ∧ ∃ hs, HostEffect s.openCycle hs ∧ t.en = hs.en ∧ t.wsOut = hs.wsOut ∧ t.fault = hs.fault := by
  obtain ⟨hs, e, -, -, eff, -, -, -, henc, rfl, -⟩ := step_effect hr h
  obtain ⟨htick', -⟩ | ⟨-, rfl⟩ := henc
  · rw [htick] at htick'; cases htick'
  · exact ⟨eff.sameEnc.trans (sameEnc_closeCycle s.openCycle hs { hs with fifo := s.fifo }), hs, eff,
      closeCycle_en .., closeCycle_wsOut .., closeCycle_fault ..⟩

/-! ### The halted state -/

theorem State.halted_eq_true_iff (s : State) : s.halted = true ↔ s.fault.code ≠ 0 := decide_eq_true_iff

/-- A host access to a machine that a fault has halted neither sets EN nor drives the pin nor touches FAULT. -/
theorem HostEffect.of_halted {s h : State} (eff : HostEffect s h) (hfault : s.fault.code ≠ 0) (hen : s.en = false)
    (hout : s.wsOut = false) : h.en = false ∧ h.wsOut = false ∧ h.fault = s.fault := by
  have still_disabled : h.en = false := by
    refine Bool.eq_false_iff.mpr fun hset => ?_
    obtain was_set | ⟨-, -, no_fault⟩ := eff.enabled hset
    · rw [hen] at was_set; cases was_set
    · exact hfault no_fault
  obtain ⟨hf, ho⟩ | ⟨-, -, ho, hf⟩ := eff.fault
  · exact ⟨still_disabled, ho.trans hout, hf⟩
  · exact ⟨still_disabled, ho, hf.trans (if_neg hfault)⟩

/-- A cycle without reset leaves a machine that a fault has halted as it is: ENC frozen, EN = 0, the pin low, FAULT
kept (R204). -/
theorem step_of_halted {s t : State} (hr : s.nextPort.rstN = true) (hfault : s.fault.code ≠ 0) (hen : s.en = false)
    (hout : s.wsOut = false) (h : step s = .next t) :
    SameEnc s t ∧ t.en = false ∧ t.wsOut = false ∧ t.fault = s.fault := by
  obtain ⟨frozen, hs, eff, ht_en, ht_out, ht_fault⟩ := step_of_no_tick hr (State.isTick_of_disabled hen) h
  obtain ⟨hs_en, hs_out, hs_fault⟩ := eff.of_halted hfault hen hout
  exact ⟨frozen, ht_en.trans hs_en, ht_out.trans hs_out, ht_fault.trans hs_fault⟩

end Sys2Proof.Machine

namespace Sys2Proof.Claims

open Sys2Proof.Machine

/-- Settles O12: with no delay pending, the tick on a word that does not decode is fault entry with code 1 and nothing
else, so neither a side value nor a refill can come in. -/
theorem illegalFetchEntersFaultOne : Obligations.IllegalFetchEntersFaultOne := by
  intro s hd hdec
  have tick : encTick s = .next (s.raiseFault 1 s.pc s.fetchWord) := encTick_of_error hd hdec
  rw [tick, State.raiseFault]

/-- Settles O46: after fault entry a fault stands, EN = 0 and the pin is low, and a cycle without reset keeps such a
state. -/
theorem faultEntryHaltsTheEncoder : Obligations.FaultEntryHaltsTheEncoder := by
  intro code fpc fins s hcode t
  have standing : t.fault.code ≠ 0 := State.raiseFault_code_ne_zero hcode fpc fins s
  have halted : t.halted = true := t.halted_eq_true_iff.mpr standing
  refine ⟨rfl, halted, halted, fun u hr hstep => ?_⟩
  obtain ⟨frozen, hen, hout, hfault⟩ := step_of_halted hr standing rfl rfl hstep
  have acc_cleared : u.acc = 0 := (step_acc hr hstep).trans (nextAcc_of_disabled t.dividerQ t.acc)
  exact ⟨frozen, acc_cleared, hen, hout, hfault⟩

end Sys2Proof.Claims
end

section
/-! PROOFS. What every cycle keeps of the whole machine: the parameters, the locked registers, the palette generator,
and the invariant (spec/10_state.md, spec/60_exceptions.md section 5). -/

namespace Sys2Proof.Machine

/-! ### The cycle as two effects and a commit -/

/-- A cycle in which ENC does nothing. -/
theorem EncEffect.refl (s : State) : EncEffect s s :=
  ⟨rfl, .inl rfl, fun _ => id, .inl ⟨rfl, rfl⟩, .inl ⟨rfl, rfl⟩, .inl rfl, .inl rfl⟩

/-- A cycle without reset, a tick or not: the host's effect, ENC's on what the host left with the FIFO as it stood, and
the commit. -/
theorem step_agents {s t : State} (hr : s.nextPort.rstN = true) (h : step s = .next t) :
    ∃ hs e, HostEffect s.openCycle hs ∧ EncEffect { hs with fifo := s.fifo } e
      ∧ (s.isTick = false → e = { hs with fifo := s.fifo }) ∧ t = closeCycle s.openCycle hs e := by
  obtain ⟨hs, e, -, -, host, -, -, -, henc, ht, -⟩ := step_effect hr h
  obtain ⟨htick, -, enc⟩ | ⟨-, rfl⟩ := henc
  · exact ⟨hs, e, host, enc, fun hno => absurd (htick.symm.trans hno) (by decide), ht⟩
  · exact ⟨hs, _, host, .refl _, fun _ => rfl, ht⟩

theorem step_answers_next (s : State) : ∃ t, step s = .next t := by
  cases hr : s.nextPort.rstN with
  | false => exact ⟨s.openCycle.applyReset, by simp only [step, cycle, hr, Bool.false_eq_true, if_false]⟩
  | true =>
    obtain ⟨hs, hhost⟩ := hostCycle_answers_next s.nextPort.access s.openCycle
    have henc : ∃ e, encCycle s.openCycle hs = .next e := by
      unfold encCycle
      split
      · exact encTick_answers_next _
      · exact ⟨_, rfl⟩
    obtain ⟨e, henc⟩ := henc
    exact ⟨_, step_of_cycle hr hhost henc⟩

theorem step_config {s t : State} (h : step s = .next t) : t.config = s.config := by
  obtain ⟨-, rfl⟩ | ⟨hr, -⟩ := step_cases h
  · rfl
  · obtain ⟨hs, e, host, enc, -, rfl⟩ := step_agents hr h
    rw [closeCycle_eq]
    exact enc.config_eq.trans host.config_eq

/-- While EN = 1 the registers the host configures are locked, and a fetch reads the same word (R55, R157). -/
theorem step_locked {s t : State} (hr : s.nextPort.rstN = true) (hen : s.en = true) (h : step s = .next t) :
    t.sysclk = s.sysclk ∧ t.dividerQ = s.dividerQ ∧ t.clkValid = s.clkValid ∧ t.wrapBottom = s.wrapBottom
      ∧ t.wrapTop = s.wrapTop ∧ t.imem = s.imem ∧ t.resets = s.resets := by
  obtain ⟨hs, e, host, enc, -, rfl⟩ := step_agents hr h
  obtain ⟨hsysclk, hint, hfrac, hvalid, hbottom, htop, himem⟩ := host.locked hen
  rw [closeCycle_eq]
  refine ⟨enc.sysclk_eq.trans hsysclk, ?_, enc.clkValid_eq.trans hvalid, enc.wrapBottom_eq.trans hbottom,
    enc.wrapTop_eq.trans htop, enc.imem_eq.trans himem, enc.resets_eq.trans host.resets_eq⟩
  exact congrArg₂ (· ++ ·) (enc.clkInt_eq.trans hint) (enc.clkFrac_eq.trans hfrac)

/-! ### COLOR -/

/-- What a cycle without reset does to the palette generator: it counts down, it finishes, it stays idle, or a PALGEN
starts it (R166). -/
theorem step_color {s t : State} (hr : s.nextPort.rstN = true) (h : step s = .next t) :
    (s.palBusy = true ∧ 1 < s.palTimer ∧ t.pal = s.pal ∧ t.palDone = s.palDone ∧ t.palBusy = true
        ∧ t.palTimer = s.palTimer - 1)
    ∨ (s.palBusy = true ∧ s.palTimer ≤ 1 ∧ t.pal = paletteOf s.config ∧ t.palDone = true ∧ t.palBusy = false
        ∧ t.palTimer = 0)
    ∨ (s.palBusy = false ∧ t.pal = s.pal ∧ t.palDone = s.palDone ∧ t.palBusy = false ∧ t.palTimer = s.palTimer)
    ∨ (s.palBusy = false ∧ t.pal = s.pal ∧ t.palDone = false ∧ t.palBusy = true
        ∧ t.palTimer = s.config.palLatency) := by
  obtain ⟨hs, e, host, enc, -, rfl⟩ := step_agents hr h
  have pal_kept : e.pal = s.pal := enc.pal_eq.trans host.pal_eq
  rw [closeCycle_eq, State.openCycle_palBusy]
  obtain ⟨hb, hd, ht⟩ | ⟨hidle, hb, hd, ht⟩ := host.palette
  · replace hb : e.palBusy = s.palBusy := enc.palBusy_eq.trans hb
    replace hd : e.palDone = s.palDone := enc.palDone_eq.trans hd
    replace ht : e.palTimer = s.palTimer := enc.palTimer_eq.trans ht
    cases hbusy : s.palBusy with
    | false => simp [hb, hd, ht, pal_kept, hbusy]
    | true =>
      have hc : e.config = s.config := enc.config_eq.trans host.config_eq
      by_cases htimer : 1 < s.palTimer
      · simp [hb, hd, ht, pal_kept, hbusy, htimer]
      · simp [ht, hc, htimer, Nat.not_lt.mp htimer]
  · replace hb : e.palBusy = true := enc.palBusy_eq.trans hb
    replace hd : e.palDone = false := enc.palDone_eq.trans hd
    replace ht : e.palTimer = s.config.palLatency := enc.palTimer_eq.trans ht
    replace hidle : s.palBusy = false := hidle
    simp [hb, hd, ht, pal_kept, hidle]

/-! ### EN, faults and the pin -/

/-- With EN = 1, CLK_VALID = 1 and no fault, no host access enters a fault (R203). -/
theorem HostEffect.fault_of_running {s h : State} (eff : HostEffect s h) (hen : s.en = true)
    (hvalid : s.clkValid = true) : h.fault = s.fault ∧ h.wsOut = s.wsOut := by
  obtain hkept | ⟨hno | ⟨hno, -⟩, -⟩ := eff.fault
  · exact hkept
  · rw [hen] at hno; cases hno
  · rw [hvalid] at hno; cases hno

/-- ENC sets no EN, and with EN = 1 after its tick it entered no fault. -/
theorem EncEffect.of_enabled {s e : State} (eff : EncEffect s e) (hen : e.en = true) :
    s.en = true ∧ e.fault = s.fault := by
  obtain ⟨hfault, hkept⟩ | ⟨-, -, rfl⟩ := eff.fault
  · exact ⟨hkept ▸ hen, hfault⟩
  · cases hen

/-- An access after which EN = 1 leaves CLK_VALID = 1 and FAULT.CODE = 0 if EN = 1 implied them before (R135, R210). -/
theorem HostEffect.enabled_kept {s h : State} (eff : HostEffect s h)
    (hs : s.en = true → s.clkValid = true ∧ s.fault.code = 0) (hen : h.en = true) :
    h.clkValid = true ∧ h.fault.code = 0 := by
  have no_fault_entered : h.fault = s.fault := by
    obtain ⟨hkept, -⟩ | ⟨-, hcleared, -⟩ := eff.fault
    · exact hkept
    · rw [hen] at hcleared; cases hcleared
  rw [no_fault_entered]
  obtain hwas | ⟨-, hvalid, hcode⟩ := eff.enabled hen
  · obtain ⟨hvalid, hcode⟩ := hs hwas
    obtain ⟨-, -, -, hlocked, -⟩ := eff.locked hwas
    exact ⟨hlocked.trans hvalid, hcode⟩
  · exact ⟨hvalid, hcode⟩

/-- EN = 1 implies CLK_VALID = 1 and FAULT.CODE = 0: every cycle keeps it on its own (R210). -/
theorem step_keeps_enabled {s t : State} (hs : s.en = true → s.clkValid = true ∧ s.fault.code = 0)
    (h : step s = .next t) (hen : t.en = true) : t.clkValid = true ∧ t.fault.code = 0 := by
  obtain ⟨-, rfl⟩ | ⟨hr, -⟩ := step_cases h
  · cases hen
  · obtain ⟨hh, e, host, enc, -, rfl⟩ := step_agents hr h
    rw [closeCycle_en] at hen
    obtain ⟨host_en, hfault⟩ := enc.of_enabled hen
    obtain ⟨hvalid, hcode⟩ := host.enabled_kept hs host_en
    rw [closeCycle_fault, hfault]
    refine ⟨?_, hcode⟩
    rw [closeCycle_eq]
    exact enc.clkValid_eq.trans hvalid

/-! ### The parts of the invariant -/

/-- CLKDIV is the usable divider of SYSCLK (R113). -/
def State.ClockSettled (s : State) : Prop :=
  s.dividerQ.toNat = dividerOf s.config s.sysclk.toNat ∧ dividerUsable s.dividerQ.toNat = true

/-- The record is one that R201 lists. -/
def FaultRecord.Listed (f : FaultRecord) : Prop :=
  f = ⟨0, 0, 0⟩ ∨ (f.code = 1 ∧ decodeMicro f.fins = .error .illegalWord) ∨ (f.code = 2 ∧ f.fins = 0)

theorem HostEffect.clockSettled_kept {s h : State} (eff : HostEffect s h) (hs : s.clkValid = true → s.ClockSettled)
    (hvalid : h.clkValid = true) : h.ClockSettled := by
  unfold State.ClockSettled
  rw [eff.config_eq]
  obtain ⟨hwas, hsysclk, hint, hfrac⟩ | hnew := eff.clock hvalid
  · have hq : h.dividerQ = s.dividerQ := congrArg₂ (· ++ ·) hint hfrac
    rw [hq, hsysclk]
    exact hs hwas
  · exact hnew

theorem step_clockSettled {s t : State} (hr : s.nextPort.rstN = true) (hs : s.clkValid = true → s.ClockSettled)
    (h : step s = .next t) (hvalid : t.clkValid = true) : t.ClockSettled := by
  obtain ⟨hh, e, host, enc, -, rfl⟩ := step_agents hr h
  rw [closeCycle_eq] at hvalid ⊢
  have settled := host.clockSettled_kept hs (enc.clkValid_eq.symm.trans hvalid)
  unfold State.ClockSettled at settled ⊢
  have hq : e.dividerQ = hh.dividerQ := congrArg₂ (· ++ ·) enc.clkInt_eq enc.clkFrac_eq
  rw [← hq, ← enc.config_eq, ← enc.sysclk_eq] at settled
  exact settled

/-- The FAULT record after a host access. -/
theorem HostEffect.listed_kept {s h : State} (eff : HostEffect s h) (hs : s.fault.Listed) : h.fault.Listed := by
  obtain ⟨hkept, -⟩ | ⟨-, -, -, hfault⟩ := eff.fault
  · rw [hkept]; exact hs
  · rw [hfault]
    split
    · exact .inr (.inr ⟨rfl, rfl⟩)
    · exact hs

/-- The FAULT record after a tick of ENC. -/
theorem EncEffect.listed_kept {s e : State} (eff : EncEffect s e) (hs : s.fault.Listed) : e.fault.Listed := by
  obtain ⟨hkept, -⟩ | ⟨-, hdec, rfl⟩ := eff.fault
  · rw [hkept]; exact hs
  · rw [State.raiseIllegal, State.raiseFault_fault]
    split
    · exact .inr (.inl ⟨rfl, hdec⟩)
    · exact hs

theorem step_listed {s t : State} (hr : s.nextPort.rstN = true) (hs : s.fault.Listed) (h : step s = .next t) :
    t.fault.Listed := by
  obtain ⟨hh, e, host, enc, -, rfl⟩ := step_agents hr h
  rw [closeCycle_fault]
  exact enc.listed_kept (host.listed_kept hs)

/-- A host access keeps a halted pin low, and lets it fall with the fault it enters (R204). -/
theorem HostEffect.halted_low {s h : State} (eff : HostEffect s h) (hs : s.fault.code ≠ 0 → s.wsOut = false)
    (hfault : h.fault.code ≠ 0) : h.wsOut = false := by
  obtain ⟨hkept, hout⟩ | ⟨-, -, hout, -⟩ := eff.fault
  · rw [hout]; exact hs (hkept ▸ hfault)
  · exact hout

/-- A halted pin is low after every cycle: only a tick drives it, and in a tick no fault stands but one ENC enters
(R204, R210). -/
theorem step_halted_low {s t : State} (hr : s.nextPort.rstN = true)
    (enabled : s.en = true → s.clkValid = true ∧ s.fault.code = 0) (hs : s.fault.code ≠ 0 → s.wsOut = false)
    (h : step s = .next t) (hfault : t.fault.code ≠ 0) : t.wsOut = false := by
  obtain ⟨hh, e, host, enc, hno, rfl⟩ := step_agents hr h
  rw [closeCycle_fault] at hfault
  rw [closeCycle_wsOut]
  cases htick : s.isTick with
  | false =>
    rw [hno htick] at hfault ⊢
    exact host.halted_low hs hfault
  | true =>
    have hen : s.en = true := ((Claims.isTick_iff_inTick s).mp htick).1
    obtain ⟨hvalid, hcode⟩ := enabled hen
    obtain ⟨host_fault, -⟩ := host.fault_of_running hen hvalid
    obtain ⟨hkept, -⟩ | ⟨-, -, rfl⟩ := enc.fault
    · exact absurd ((congrArg FaultRecord.code (hkept.trans host_fault)).trans hcode) hfault
    · rfl

/-- The accumulator starts below Q and stays there (R116). -/
theorem step_acc_below {s t : State} (hr : s.nextPort.rstN = true)
    (below : s.en = true → s.acc.toNat < s.dividerQ.toNat) (usable : s.en = true → 256 ≤ s.dividerQ.toNat)
    (usable' : 256 ≤ t.dividerQ.toNat) (h : step s = .next t) : t.acc.toNat < t.dividerQ.toNat := by
  obtain ⟨cleared, counted⟩ := Claims.tickgenStepsAccumulator s t hr h
  rw [← dividerQ_toNat] at counted
  cases hen : s.en with
  | false =>
    rw [cleared hen]
    exact Nat.lt_of_lt_of_le (by decide) usable'
  | true =>
    obtain ⟨-, hq, -⟩ := step_locked hr hen h
    obtain ⟨-, -, hbelow⟩ := counted hen (usable hen) (below hen)
    rwa [hq]

theorem step_osrCount {s t : State} (hr : s.nextPort.rstN = true) (hl : s.config.legal = true)
    (hs : s.osrCount.toNat ≤ 32) (h : step s = .next t) : t.osrCount.toNat ≤ 32 := by
  obtain ⟨hh, e, host, enc, -, rfl⟩ := step_agents hr h
  rw [closeCycle_osrCount]
  exact enc.osrCount (host.config_eq.symm ▸ hl) (host.osrCount_eq.symm ▸ hs)

theorem step_fifo_length {s t : State} (hr : s.nextPort.rstN = true) (hs : s.fifo.length ≤ s.config.fifoDepth)
    (h : step s = .next t) : t.fifo.length ≤ s.config.fifoDepth := by
  obtain ⟨kept, pushed, hfifo, hkept, hone, hroom, -⟩ := Claims.fifoKeepsOrder s t hr h
  have hle : kept.length ≤ s.fifo.length := by
    obtain rfl | ⟨-, rfl⟩ := hkept
    · exact Nat.le_refl _
    · rw [List.length_tail]; omega
  rw [hfifo, List.length_append]
  by_cases hp : pushed = []
  · rw [hp, List.length_nil]; omega
  · have := hroom hp; omega

theorem step_imem_wf {s t : State} (hr : s.nextPort.rstN = true) (hl : s.config.legal = true)
    (hs : s.imem.wf s.config.imemSize = true) (h : step s = .next t) : t.imem.wf s.config.imemSize = true := by
  obtain ⟨hh, e, host, enc, -, rfl⟩ := step_agents hr h
  rw [closeCycle_eq]
  exact enc.imem_eq.symm ▸ host.imem hl hs

theorem step_pal_wf {s t : State} (hr : s.nextPort.rstN = true) (hs : s.pal.wf s.config.nLeds = true)
    (h : step s = .next t) : t.pal.wf s.config.nLeds = true := by
  obtain ⟨-, -, hpal, -⟩ | ⟨-, -, hpal, -⟩ | ⟨-, hpal, -⟩ | ⟨-, hpal, -⟩ := step_color hr h <;> rw [hpal]
  case inr.inl => exact paletteOf_wf s.config
  all_goals exact hs

/-- PAL_DONE = 1 is left from before with its palette, or is the end of a PALGEN (R166, R188). -/
theorem step_palDone {s t : State} (hr : s.nextPort.rstN = true)
    (hs : s.palDone = true → s.pal = paletteOf s.config) (h : step s = .next t) (hdone : t.palDone = true) :
    t.pal = paletteOf s.config := by
  obtain ⟨-, -, hpal, hd, -⟩ | ⟨-, -, hpal, -⟩ | ⟨-, hpal, hd, -⟩ | ⟨-, -, hd, -⟩ := step_color hr h
  · rw [hpal]; exact hs (hd ▸ hdone)
  · exact hpal
  · rw [hpal]; exact hs (hd ▸ hdone)
  · rw [hd] at hdone; cases hdone

/-- How PAL_BUSY, PAL_DONE and the timer of a machine with these parameters go together (R166). -/
def State.TimerAgrees (c : Config) (s : State) : Prop :=
  (s.palBusy = true → s.palDone = false ∧ 1 ≤ s.palTimer ∧ s.palTimer ≤ c.palLatency)
    ∧ (s.palBusy = false → s.palTimer = 0)

theorem step_timerAgrees {s t : State} (hr : s.nextPort.rstN = true) (hl : s.config.legal = true)
    (hs : s.TimerAgrees s.config) (h : step s = .next t) : t.TimerAgrees s.config := by
  obtain ⟨busy, idle⟩ := hs
  have latency := (Config.ranges_of_legal hl).palLatency
  unfold State.TimerAgrees
  obtain ⟨hb, hrun, -, hd', hb', ht'⟩ | ⟨-, -, -, -, hb', ht'⟩ | ⟨hb, -, -, hb', ht'⟩ | ⟨-, -, hd', hb', ht'⟩ :=
    step_color hr h <;> rw [hb', ht']
  · obtain ⟨hd, -, hle⟩ := busy hb
    exact ⟨fun _ => ⟨hd'.trans hd, by omega, by omega⟩, fun hf => by cases hf⟩
  · exact ⟨fun hf => (by cases hf), fun _ => rfl⟩
  · exact ⟨fun hf => (by cases hf), fun _ => idle hb⟩
  · exact ⟨fun _ => ⟨hd', latency, Nat.le_refl _⟩, fun hf => by cases hf⟩

/-- The state after reset has the invariant. -/
theorem inv_resetOf {c : Config} (hl : c.legal = true) : (State.resetOf c).Inv where
  config := hl
  enabled h := by cases h
  clock h := by cases h
  accBelow h := by cases h
  osrCount := Nat.le_refl 32
  fifo := Nat.zero_le _
  imem := rfl
  pal := rfl
  palDone h := by cases h
  palBusy := ⟨fun h => (by cases h), fun _ => rfl⟩
  halted h := absurd rfl h
  record := .inl rfl

/-- The inputs to come, the answer on `h_rdata` and the model's own counters have no part in the invariant. -/
theorem State.Inv.of_ports {s : State} (h : s.Inv) (inputs : List PortCycle) (r : Option Word) (n m : Nat) :
    State.Inv { s with inputs := inputs, hRdata := r, draws := n, resets := m } :=
  { h with }

end Sys2Proof.Machine

namespace Sys2Proof.Claims

open Sys2Proof.Machine

/-- Settles O43: a reset cycle ends in a state with the invariant, and each part of it is kept by a cycle of the host,
ENC and the commit, the accumulator's by the divider's. -/
theorem stepKeepsInvariant : Obligations.StepKeepsInvariant := by
  intro s t inv hstep
  have hc := step_config hstep
  obtain ⟨-, rfl⟩ | ⟨hr, -⟩ := step_cases hstep
  · exact (inv_resetOf inv.config).of_ports _ none _ _
  have usable {u : State} (hu : u.ClockSettled) : 256 ≤ u.dividerQ.toNat :=
    ((dividerUsable_eq_true_iff _).mp hu.2).1
  have enabled := step_keeps_enabled inv.enabled hstep
  have clock := step_clockSettled hr inv.clock hstep
  exact {
    config := hc ▸ inv.config
    enabled := enabled
    clock := clock
    accBelow := fun hen => step_acc_below hr inv.accBelow (fun h => usable (inv.clock (inv.enabled h).1))
      (usable (clock (enabled hen).1)) hstep
    osrCount := step_osrCount hr inv.config inv.osrCount hstep
    fifo := hc ▸ step_fifo_length hr inv.fifo hstep
    imem := hc ▸ step_imem_wf hr inv.config inv.imem hstep
    pal := hc ▸ step_pal_wf hr inv.pal hstep
    palDone := hc ▸ step_palDone hr inv.palDone hstep
    palBusy := hc ▸ step_timerAgrees hr inv.config inv.palBusy hstep
    halted := step_halted_low hr inv.enabled inv.halted hstep
    record := step_listed hr inv.record hstep }

/-- Settles O44: after reset EN, CLK_VALID, PAL_BUSY and PAL_DONE are 0 and everything else is at the start of its
range. -/
theorem resetHasInvariant : Obligations.ResetHasInvariant :=
  ⟨fun _ hl => inv_resetOf hl, inv_resetOf wsenc_legal⟩

/-- Settles O45: what the host leaves enabled has a divider and no fault, and ENC's tick clears EN with the fault it
enters. -/
theorem enabledImpliesClockAndNoFault : Obligations.EnabledImpliesClockAndNoFault := fun _ _ =>
  step_keeps_enabled

/-- Settles O34: the host's part and ENC's tick always answer, and neither they nor the commit nor a reset writes the
parameters. -/
theorem everyCycleHasANextState : Obligations.EveryCycleHasANextState := by
  intro s
  obtain ⟨t, hstep⟩ := step_answers_next s
  exact ⟨t, hstep, step_config hstep⟩

end Sys2Proof.Claims
end

section
/-! PROOFS. What one cycle can change: ENC's state, the pin, the program, the FAULT record, and the parts a cycle is
made of (spec/20_memory.md, spec/40_encoder_instructions.md, spec/60_exceptions.md, spec/70_reset_and_hazards.md). -/

namespace Sys2Proof.Machine

/-! ### A tick and no tick -/

theorem State.isTick_eq_false_iff (s : State) : s.isTick = false ↔ ¬ Claims.InTick s := by
  rw [← Claims.isTick_iff_inTick, Bool.not_eq_true]

/-- What ENC changes in a cycle it changes in a tick. -/
theorem inTick_of_enc_changed {α : Type} {f : State → α} {s hs e : State}
    (hno : s.isTick = false → e = { hs with fifo := s.fifo })
    (hne : f e ≠ f { hs with fifo := s.fifo }) : Claims.InTick s := by
  rw [← Claims.isTick_iff_inTick, ← Bool.not_eq_false]
  exact fun htick => hne (congrArg f (hno htick))

theorem step_of_reset {s : State} (hr : s.nextPort.rstN = false) : step s = .next s.openCycle.applyReset := by
  simp only [step, cycle, hr, Bool.false_eq_true, if_false]

theorem encCycle_of_no_tick {start : State} (h : start.isTick = false) (host : State) :
    encCycle start host = .next (encView start host) := if_neg (Bool.eq_false_iff.mp h)

/-- In a cycle that is no tick nothing leaves the FIFO (R48). -/
theorem step_fifo_kept {s t : State} (hr : s.nextPort.rstN = true) (hno : ¬ Claims.InTick s)
    (h : step s = .next t) : s.fifo <+: t.fifo := by
  obtain ⟨kept, pushed, hfifo, -, -, -, hpop⟩ := Claims.fifoKeepsOrder s t hr h
  have hkept : kept = s.fifo := by
    by_contra hne
    exact hno (hpop hne).1
  exact ⟨pushed, by rw [hfifo, hkept]⟩

/-- A host access moves the pin only by the fault it enters (R204). -/
theorem HostEffect.wsOut_cases {s h : State} (eff : HostEffect s h) :
    h.wsOut = s.wsOut ∨ (h.wsOut = false ∧ h.fault.code ≠ 0) := by
  obtain ⟨-, hkept⟩ | ⟨-, -, hlow, hfault⟩ := eff.fault
  · exact .inl hkept
  · refine .inr ⟨hlow, ?_⟩
    rw [hfault]
    split
    · exact (by decide : (2 : BitVec 4) ≠ 0)
    · assumption

/-- Beside a tick that fetches a reserved word, the host leaves the record to ENC (R41, R202). -/
theorem step_illegal_fetch_record {s t : State} (hr : s.nextPort.rstN = true) (hin : Claims.InTick s)
    (hvalid : s.clkValid = true) (hcode : s.fault.code = 0) (hd : s.delayCtr = 0) {r : Reject}
    (hdec : decodeMicro s.fetchWord = .error r) (h : step s = .next t) : t.fault = ⟨1, s.pc, s.fetchWord⟩ := by
  obtain ⟨hs, e, -, -, host, -, -, -, ⟨-, he, -⟩ | ⟨hno, -⟩, rfl, -⟩ := step_effect hr h
  · have hword : ({ hs with fifo := s.fifo } : State).fetchWord = s.fetchWord := host.fetchWord_eq hin.1 s.fifo
    have hfault : hs.fault = s.fault := (host.fault_of_running hin.1 hvalid).1
    have hpc : hs.pc = s.pc := host.pc_eq
    rw [encTick_of_error (s := { hs with fifo := s.fifo }) (host.delayCtr_eq.trans hd) (hword.symm ▸ hdec)] at he
    injection he with he; subst he
    rw [closeCycle_fault, State.raiseIllegal, hword, State.raiseFault_fault]
    simp only [hfault, hpc, hcode, if_true]
  · exact absurd hin ((State.isTick_eq_false_iff s).mp hno)

/-! ### A cycle put together -/

/-- Without a tick the commit is on what the host leaves. -/
theorem closeCycle_encView (s h : State) (hf : h.fifo = s.fifo ++ pushedWords s h) :
    { encView s h with fifo := (encView s h).fifo ++ pushedWords s h } = h := by
  show { h with fifo := s.fifo ++ pushedWords s h } = h
  rw [← hf]

end Sys2Proof.Machine

namespace Sys2Proof.Claims

open Sys2Proof.Machine

/-- Settles O37: a host access needs EN = 0 or CLK_VALID = 0 to enter a fault, and ENC's tick runs after it. -/
theorem sameCycleEventsAreOrdered : Obligations.SameCycleEventsAreOrdered := by
  refine ⟨fun s h hen hvalid _ hhost => (hostCycle_effect hhost).fault_of_running hen hvalid,
    fun s t hr hin hvalid hcode hd hdec hstep => ?_⟩
  obtain ⟨hen, hout, -⟩ := step_illegal_fetch hr ((isTick_iff_inTick s).mpr hin) hd hdec hstep
  exact ⟨hen, hout, step_illegal_fetch_record hr hin hvalid hcode hd hdec hstep⟩

/-- Settles O51: the registers and the memory ENC runs from are locked while EN = 1. -/
theorem programFixedWhileEnabled : Obligations.ProgramFixedWhileEnabled := by
  intro s t hr hen hstep
  obtain ⟨hsysclk, -, -, hbottom, htop, himem, hresets⟩ := step_locked hr hen hstep
  exact ⟨himem, fun a => by rw [State.imemWord, State.imemWord, himem, hresets], hbottom, htop, hsysclk⟩

/-- Settles O48: the host does not write X, and of ENC's ticks only a completing OUT does. -/
theorem xWrittenOnlyByOut : Obligations.XWrittenOnlyByOut := by
  intro s t hr hstep hne
  obtain ⟨hs, e, host, enc, hno, rfl⟩ := step_agents hr hstep
  rw [closeCycle_eq] at hne ⊢
  obtain ⟨hx, hw⟩ | ⟨hd, hcount, hdec, hx, hw⟩ := enc.x
  · exact (hne.elim (· (hx.trans host.x_eq)) (· (hw.trans host.xWritten_eq))).elim
  · have hin : InTick s := by
      refine inTick_of_enc_changed (f := fun u => (u.x, u.xWritten)) hno fun heq => ?_
      obtain ⟨hx, hw⟩ := Prod.mk.inj heq
      exact hne.elim (· (hx.trans host.x_eq)) (· (hw.trans host.xWritten_eq))
    rw [host.fetchWord_eq hin.1] at hdec
    refine ⟨hin, host.delayCtr_eq.symm.trans hd, ?_, hdec, hx.trans (by rw [host.osr_eq]; rfl), hw⟩
    simpa [host.osrCount_eq, host.config_eq] using hcount

/-- Settles O49: the host does not write the direction, and of ENC's ticks only SET PINDIRS does. -/
theorem pinDirectionOnlyBySetPindirs : Obligations.PinDirectionOnlyBySetPindirs := by
  intro s t hr hstep hne
  obtain ⟨hs, e, host, enc, hno, rfl⟩ := step_agents hr hstep
  rw [closeCycle_eq] at hne ⊢
  have hchanged : e.wsOe ≠ hs.wsOe := host.wsOe_eq.symm ▸ hne
  have hin : InTick s := inTick_of_enc_changed (f := State.wsOe) hno hchanged
  obtain ⟨hd, hdec⟩ := enc.wsOe.resolve_left hchanged
  rw [host.fetchWord_eq hin.1] at hdec
  exact ⟨hin, host.delayCtr_eq.symm.trans hd, hdec⟩

/-- Settles O40: without a tick only the host acts on ENC's state, and it reaches no more of it than the pin by a fault
and the tail of the FIFO. -/
theorem noTickFreezesEnc : Obligations.NoTickFreezesEnc := by
  intro s t hr hno hstep
  obtain ⟨frozen, hs, host, -, hout, hfault⟩ := step_of_no_tick hr ((State.isTick_eq_false_iff s).mpr hno) hstep
  refine ⟨frozen, step_fifo_kept hr hno hstep, ?_, fun hen => ?_⟩
  · rw [hout, hfault]
    exact host.wsOut_cases
  · rw [step_acc hr hstep, hen, nextAcc_of_disabled]

/-- Settles O47: with EN = 0 no cycle is a tick, and a host access to a halted machine enters no new record. -/
theorem faultIsPermanent : Obligations.FaultIsPermanent := by
  intro s t hfault hen hout hr hstep
  obtain ⟨frozen, hen', hout', hfault'⟩ := step_of_halted hr hfault hen hout hstep
  have hno : ¬ InTick s := fun hin => Bool.false_ne_true (hen.symm.trans hin.1)
  exact ⟨hfault', hen', hout', frozen, step_fifo_kept hr hno hstep⟩

/-- Settles O33: the step is the host's part, ENC's tick on the host's outcome with the FIFO as it stood, and the
commit, and each part runs what the decoder says. -/
theorem stepRunsDecodedOperations : Obligations.StepRunsDecodedOperations := by
  refine ⟨fun s hr => step_of_reset hr, fun s h hr hno hhost => ?_, fun s h e hr hin hhost he => ?_, fun s => rfl,
    fun s a i hdec => ?_, fun s a r hdec => ?_, fun s i => encTick_of_ok⟩
  · have henc := encCycle_of_no_tick (start := s.openCycle) ((State.isTick_eq_false_iff s).mpr hno) h
    obtain ⟨pushed, hf, -⟩ := (hostCycle_effect hhost).fifo
    rw [step_of_cycle hr hhost henc, closeCycle_eq_committed,
      show s.openCycle = started s from rfl, closeCycle_encView]
    rw [hf, pushedWords_of_append hf]
  · have henc := (encCycle_of_isTick (start := s.openCycle) ((isTick_iff_inTick s).mpr hin) h).trans he
    have host := hostCycle_effect hhost
    refine ⟨?_, host.delayCtr_eq, host.fetchWord_eq hin.1 h.fifo⟩
    rw [step_of_cycle hr hhost henc, closeCycle_eq_committed]
    rfl
  · simp only [hostCycle, hdec]
  · simp only [hostCycle, hdec]
    rfl

/-- Settles O38: a reset cycle is the reset state with the inputs still to come. -/
theorem resetCycleResetsEverything : Obligations.ResetCycleResetsEverything := fun _ hr =>
  ⟨_, step_of_reset hr, rfl, rfl, rfl, rfl, rfl, rfl, rfl, rfl, rfl, rfl, rfl, rfl, rfl, rfl, rfl, rfl, rfl, rfl, rfl,
    fun _ => rfl, rfl, rfl, rfl, rfl⟩

/-- The FIFO of a legal machine is not full when it is empty. -/
theorem txFull_resetOf {c : Config} (hl : c.legal = true) : (State.resetOf c).txFull = false := by
  have := (Config.ranges_of_legal hl).fifoDepth
  exact decide_eq_false (show ¬ 0 = c.fifoDepth by omega)

/-- Settles O39: of what the ports and the reads show, only TXFULL and `tx_dreq` depend on the parameters. -/
theorem resetStateFromOutside : Obligations.ResetStateFromOutside := by
  intro c hl s
  have hroom : s.txDreq = true := decide_eq_true (Config.ranges_of_legal hl).fifoDepth.1
  have hstat : s.statImage = 0x00000002#32 := by
    have hhalted : s.halted = false := rfl
    have hstalled : s.stalled = false := rfl
    have hempty : s.txEmpty = true := rfl
    rw [State.statImage, txFull_resetOf hl, hhalted, hstalled, hempty]
    show 0#16 ++ 0#1 ++ 0#1 ++ 0#1 ++ 0#1 ++ 0#1 ++ 0#1 ++ 0#1 ++ 0#1 ++ 0#4 ++ 0#2 ++ 1#1 ++ 0#1 = 0x00000002#32
    decide
  have hwrap : s.wrapImage = 0x00001F00#32 := by
    show 0#19 ++ 31#5 ++ 0#3 ++ 0#5 = 0x00001F00#32
    decide
  have hclkdiv : s.clkdivImage = 0#32 := by
    show 0#16 ++ 0#8 ++ 0#8 = 0#32
    decide
  exact ⟨rfl, rfl, hroom, rfl, rfl, rfl, by rw [exec_statR, hstat]; rfl, by rw [exec_clkdivR, hclkdiv]; rfl,
    by rw [exec_wrapR, hwrap]; rfl, rfl⟩

end Sys2Proof.Claims
end

section
/-! PROOFS. The statements of spec/30_encoding.md: the encoder and the decoder undo each other, and the reserved
words. -/

namespace Sys2Proof.Machine

/-! ### The fields of a micro-instruction word -/

/-- SIDE and DELAY stand at bits 12..8 of the word they are read from (R61). -/
theorem sideDelayBits_fields (w : Half) : sideDelayBits (sideField w) (delayField w) = w &&& 0x1F00#16 := by
  ext i hi
  interval_cases i <;> simp [sideDelayBits, sideField, delayField]

/-- ADDR stands at bits 4..0 (R63). -/
theorem addrField_setWidth (w : Half) : (addrField w).setWidth 16 = w &&& 0x001F#16 := by
  ext i hi
  interval_cases i <;> simp [addrField]

theorem operandBit_setWidth (w : Half) : (BitVec.ofBool (w.getLsbD 0)).setWidth 16 = w &&& 0x0001#16 := by
  ext i hi
  interval_cases i <;> simp

/-- A row's fixed bits with SIDE, DELAY and the bits `low` that its mask leaves open are the whole word. -/
theorem word_of_row {w mask fixed low operand : Half} (hfixed : w &&& mask = fixed) (hoperand : operand = w &&& low)
    (hall : mask ||| (0x1F00#16 ||| low) = BitVec.allOnes 16) :
    fixed ||| sideDelayBits (sideField w) (delayField w) ||| operand = w := by
  rw [← hfixed, sideDelayBits_fields, hoperand, BitVec.or_assoc, ← BitVec.and_or_distrib_left,
    ← BitVec.and_or_distrib_left, hall, BitVec.and_allOnes]

/-- CLASS and the low byte of a masked word: the masks of R67 leave SIDE and DELAY out. -/
theorem and_mask_eq_iff (w : Half) (cls : BitVec 3) (mask low : Byte) :
    w &&& (7#3 ++ 0#5 ++ mask) = cls ++ 0#5 ++ low
      ↔ w.extractLsb' 13 3 = cls ∧ w.extractLsb' 0 8 &&& mask = low := by
  have hparts : w = w.extractLsb' 13 3 ++ w.extractLsb' 8 5 ++ w.extractLsb' 0 8 := by
    rw [BitVec.extractLsb'_append_extractLsb'_eq_extractLsb' (by rfl : 13 = 8 + 5),
      BitVec.extractLsb'_append_extractLsb'_eq_extractLsb' (by rfl : 8 = 0 + 8), BitVec.extractLsb'_eq_self]
  have hcls : w.extractLsb' 13 3 &&& 7#3 = w.extractLsb' 13 3 := BitVec.and_allOnes
  conv_lhs => rw [hparts]
  rw [BitVec.and_append, BitVec.and_append, hcls, BitVec.and_zero]
  simp only [← BitVec.toNat_inj, toNat_append_eq_add, BitVec.toNat_ofNat]
  have := (w.extractLsb' 0 8 &&& mask).isLt
  have := low.isLt
  omega

/-- The words that decode: the five rows of R67 by CLASS and low byte. -/
theorem decodeMicro_eq_error_iff (w : Half) : decodeMicro w = .error .illegalWord ↔
    ¬ (w.toNat / 2 ^ 13 = 0 ∧ w.toNat % 256 / 32 = 0) ∧ ¬ (w.toNat / 2 ^ 13 = 0 ∧ w.toNat % 256 / 32 = 1)
    ∧ ¬ (w.toNat / 2 ^ 13 = 3 ∧ w.toNat % 256 = 0x21) ∧ ¬ (w.toNat / 2 ^ 13 = 5 ∧ w.toNat % 256 = 0x42)
    ∧ ¬ (w.toNat / 2 ^ 13 = 7 ∧ w.toNat % 256 / 2 = 0x40) := by
  have hcls (c : BitVec 3) : w.extractLsb' 13 3 = c ↔ w.toNat / 2 ^ 13 = c.toNat := by
    rw [← BitVec.toNat_inj, BitVec.extractLsb'_toNat, Nat.shiftRight_eq_div_pow, Nat.mod_eq_of_lt (by omega)]
  have hlow : (w.extractLsb' 0 8).toNat = w.toNat % 256 := by
    rw [BitVec.extractLsb'_toNat, Nat.shiftRight_zero]
  have cond : ∀ b : Byte, (b &&& 0xE0#8 = 0#8 ↔ b.toNat / 32 = 0) ∧ (b &&& 0xE0#8 = 0x20#8 ↔ b.toNat / 32 = 1)
      ∧ (b &&& 0xFF#8 = 0x21#8 ↔ b.toNat = 0x21) ∧ (b &&& 0xFF#8 = 0x42#8 ↔ b.toNat = 0x42)
      ∧ (b &&& 0xFE#8 = 0x80#8 ↔ b.toNat / 2 = 0x40) := by decide
  obtain ⟨jmp, jmpNotX, outX, nop, setPindirs⟩ := cond (w.extractLsb' 0 8)
  have row (cls : BitVec 3) (mask low : Byte) := and_mask_eq_iff w cls mask low
  have hj := row 0 0xE0 0x00
  have hx := row 0 0xE0 0x20
  have ho := row 3 0xFF 0x21
  have hn := row 5 0xFF 0x42
  have hs := row 7 0xFE 0x80
  rw [hcls] at hj hx ho hn hs
  rw [← hlow, ← jmp, ← jmpNotX, ← outX, ← nop, ← setPindirs]
  unfold decodeMicro
  simp only [ite_eq_iff, reduceCtorEq, and_false, false_or, and_true]
  exact and_congr (not_congr hj) (and_congr (not_congr hx) (and_congr (not_congr ho)
    (and_congr (not_congr hn) (not_congr hs))))

/-! ### The words of the micro-instructions -/

/-- The micro-instruction with other SIDE and DELAY. -/
def withSideDelay (side : Bool) (delay : BitVec 4) : Instr → Instr
  | .jmp _ _ addr => .jmp side delay addr
  | .jmpNotX _ _ addr => .jmpNotX side delay addr
  | .outX _ _ => .outX side delay
  | .nop _ _ => .nop side delay
  | .setPindirs d _ _ => .setPindirs d side delay
  | i => i

theorem sideDelayBits_parts : ∀ side delay, (sideDelayBits side delay).getLsbD 12 = side
    ∧ (sideDelayBits side delay).extractLsb' 8 4 = delay ∧ (sideDelayBits side delay).extractLsb' 0 5 = 0
    ∧ (sideDelayBits side delay).getLsbD 0 = false := by
  decide

/-- The decoder's tests do not see SIDE and DELAY; it hands them on to the instruction (R61, R67). -/
theorem decodeMicro_or_sideDelayBits {w : Half} (hw : w &&& 0x1F00#16 = 0#16) (side : Bool) (delay : BitVec 4) :
    decodeMicro (w ||| sideDelayBits side delay) = (decodeMicro w).map (withSideDelay side delay) := by
  obtain ⟨hbit12, hdelay, haddr, hbit0⟩ := sideDelayBits_parts side delay
  have tests (mask : Half) (hmask : mask &&& 0x1F00#16 = 0#16) :
      (w ||| sideDelayBits side delay) &&& mask = w &&& mask := by
    rw [BitVec.and_comm, BitVec.and_or_distrib_left, Claims.and_sideDelayBits_eq_zero hmask, BitVec.or_zero,
      BitVec.and_comm]
  have side_eq : sideField (w ||| sideDelayBits side delay) = side := by
    have hzero : w.getLsbD 12 = false := by simpa using congrArg (BitVec.getLsbD · 12) hw
    rw [sideField, BitVec.getLsbD_or, hzero, hbit12, Bool.false_or]
  have delay_eq : delayField (w ||| sideDelayBits side delay) = delay := by
    have hzero : w.extractLsb' 8 4 = 0#4 := by
      have h := congrArg (BitVec.extractLsb' 8 4) hw
      rw [BitVec.extractLsb'_and] at h
      exact (BitVec.and_allOnes (x := w.extractLsb' 8 4)).symm.trans h
    rw [delayField, BitVec.extractLsb'_or, hzero, hdelay, BitVec.zero_or]
  have addr_eq : addrField (w ||| sideDelayBits side delay) = addrField w := by
    rw [addrField, BitVec.extractLsb'_or, haddr]; exact BitVec.or_zero
  have bit_eq : (w ||| sideDelayBits side delay).getLsbD 0 = w.getLsbD 0 := by
    rw [BitVec.getLsbD_or, hbit0, Bool.or_false]
  unfold decodeMicro
  rw [tests 0xE0E0#16 (by decide), tests 0xE0FF#16 (by decide), tests 0xE0FE#16 (by decide), side_eq, delay_eq,
    addr_eq, bit_eq]
  split_ifs <;> rfl

/-- The same for a word whose fields stand in the order of R74. -/
theorem decodeMicro_of_fields {base operand : Half} {i : Instr} (hw : (base ||| operand) &&& 0x1F00#16 = 0#16)
    (hdec : decodeMicro (base ||| operand) = .ok i) (side : Bool) (delay : BitVec 4) :
    decodeMicro (base ||| sideDelayBits side delay ||| operand) = .ok (withSideDelay side delay i) := by
  rw [BitVec.or_assoc, BitVec.or_comm (sideDelayBits side delay), ← BitVec.or_assoc, decodeMicro_or_sideDelayBits hw,
    hdec]
  rfl

theorem decodeMicro_jmp (side : Bool) (delay : BitVec 4) (addr : BitVec 5) :
    decodeMicro (0x0000#16 ||| sideDelayBits side delay ||| addr.setWidth 16) = .ok (.jmp side delay addr) := by
  have row : ∀ a : BitVec 5, (0x0000#16 ||| a.setWidth 16) &&& 0x1F00#16 = 0#16
      ∧ decodeMicro (0x0000#16 ||| a.setWidth 16) = .ok (.jmp false 0 a) := by decide
  exact decodeMicro_of_fields (row addr).1 (row addr).2 side delay

theorem decodeMicro_jmpNotX (side : Bool) (delay : BitVec 4) (addr : BitVec 5) :
    decodeMicro (0x0020#16 ||| sideDelayBits side delay ||| addr.setWidth 16) = .ok (.jmpNotX side delay addr) := by
  have row : ∀ a : BitVec 5, (0x0020#16 ||| a.setWidth 16) &&& 0x1F00#16 = 0#16
      ∧ decodeMicro (0x0020#16 ||| a.setWidth 16) = .ok (.jmpNotX false 0 a) := by decide
  exact decodeMicro_of_fields (row addr).1 (row addr).2 side delay

theorem decodeMicro_outX (side : Bool) (delay : BitVec 4) :
    decodeMicro (0x6021#16 ||| sideDelayBits side delay) = .ok (.outX side delay) :=
  decodeMicro_or_sideDelayBits (w := 0x6021#16) (by decide) side delay

theorem decodeMicro_nop (side : Bool) (delay : BitVec 4) :
    decodeMicro (0xA042#16 ||| sideDelayBits side delay) = .ok (.nop side delay) :=
  decodeMicro_or_sideDelayBits (w := 0xA042#16) (by decide) side delay

theorem decodeMicro_setPindirs (d side : Bool) (delay : BitVec 4) :
    decodeMicro (0xE080#16 ||| sideDelayBits side delay ||| (BitVec.ofBool d).setWidth 16)
      = .ok (.setPindirs d side delay) := by
  have row : ∀ d : Bool, (0xE080#16 ||| (BitVec.ofBool d).setWidth 16) &&& 0x1F00#16 = 0#16
      ∧ decodeMicro (0xE080#16 ||| (BitVec.ofBool d).setWidth 16) = .ok (.setPindirs d false 0) := by decide
  exact decodeMicro_of_fields (row d).1 (row d).2 side delay

/-- A word that decodes is the word of the instruction it decodes to: the fixed bits of the row it matches with its own
open bits. -/
theorem encode_of_decodeMicro {c : Config} {w : Half} {i : Instr} (h : decodeMicro w = .ok i) :
    i.wellFormed c = true ∧ encode i = .micro w := by
  unfold decodeMicro at h
  split_ifs at h with hj hx ho hn hs <;> injection h with h <;> subst h <;> refine ⟨rfl, congrArg Code.micro ?_⟩
  · exact word_of_row hj (addrField_setWidth w) (by decide)
  · exact word_of_row hx (addrField_setWidth w) (by decide)
  · exact BitVec.or_zero.symm.trans (word_of_row ho BitVec.and_zero.symm (by decide))
  · exact BitVec.or_zero.symm.trans (word_of_row hn BitVec.and_zero.symm (by decide))
  · exact word_of_row hs (operandBit_setWidth w) (by decide)

/-! ### The operand addresses of host accesses -/

theorem imemAddress_extract (addr : Byte) (h : addr &&& 0xE0#8 = 0x20#8) :
    0x20#8 ||| (addr.extractLsb' 0 5).setWidth 8 = addr := by
  revert addr; decide

theorem palAddress_extract (addr : Byte) (h : addr.getLsbD 7 = true) :
    0x80#8 ||| (addr.extractLsb' 0 7).setWidth 8 = addr := by
  revert addr; decide

/-- The address of IMEM word `i` is above the registers, and `i` is its low bits (R69). -/
theorem decodeWrite_imem (c : Config) (i : BitVec 5) (v : Word) :
    decodeWrite c (0x20#8 ||| i.setWidth 8) v = .ok (.imemW i v) := by
  have hfields : ∀ i : BitVec 5, (0x20#8 ||| i.setWidth 8) &&& 0xE0#8 = 0x20#8
      ∧ (0x20#8 ||| i.setWidth 8).extractLsb' 0 5 = i := by decide
  obtain ⟨hrange, hindex⟩ := hfields i
  have := (imemAddress_range _ hrange).1
  simp only [decodeWrite, hrange, if_true, hindex]
  repeat rw [if_neg (by bv_omega)]

/-- The address of PAL entry `k` is above all others, and `k` is its low bits (R69). -/
theorem decodeRead_pal {c : Config} {k : BitVec 7} (hk : paletteIndexOk c k = true) :
    decodeRead c (0x80#8 ||| k.setWidth 8) = .ok (.palR k) := by
  have hfields : ∀ k : BitVec 7, (0x80#8 ||| k.setWidth 8).getLsbD 7 = true
      ∧ (0x80#8 ||| k.setWidth 8).extractLsb' 0 7 = k ∧ 0x80 ≤ (0x80#8 ||| k.setWidth 8).toNat := by decide
  obtain ⟨hhigh, hindex, hle⟩ := hfields k
  simp only [decodeRead, hhigh, hindex, hk, Bool.and_self, if_true]
  repeat rw [if_neg (by bv_omega)]

/-- If `r` is an instruction, it is well formed and `code` is its code. -/
def EncodesBack (c : Config) (code : Code) (r : Except Reject Instr) : Prop :=
  ∀ i, r = .ok i → i.wellFormed c = true ∧ encode i = code

theorem EncodesBack.ok {c : Config} {code : Code} {i : Instr} (hwf : i.wellFormed c = true) (hcode : encode i = code) :
    EncodesBack c code (.ok i) := fun j hj => by
  injection hj with hj
  exact hj ▸ ⟨hwf, hcode⟩

theorem EncodesBack.error {c : Config} {code : Code} (r : Reject) : EncodesBack c code (.error r) :=
  fun _ hj => by cases hj

theorem EncodesBack.ite {c : Config} {code : Code} {p : Prop} [Decidable p] {a b : Except Reject Instr}
    (ha : p → EncodesBack c code a) (hb : EncodesBack c code b) : EncodesBack c code (if p then a else b) := by
  split
  · exact ha ‹p›
  · exact hb

/-- Eight registers and IMEM are written at their own addresses (R69). -/
theorem encodesBack_decodeWrite (c : Config) (addr : Byte) (v : Word) :
    EncodesBack c (writeAt addr v) (decodeWrite c addr v) := by
  unfold decodeWrite
  iterate 8 refine .ite (by rintro rfl; exact .ok rfl rfl) ?_
  refine .ite (fun himem => .ok rfl (congrArg (writeAt · v) (imemAddress_extract addr himem))) ?_
  exact .ite (fun _ => .error _) (.ite (fun _ => .error _) (.error _))

/-- Nine registers and PAL are read at their own addresses (R69). -/
theorem encodesBack_decodeRead (c : Config) (addr : Byte) : EncodesBack c (readAt addr) (decodeRead c addr) := by
  unfold decodeRead
  iterate 9 refine .ite (by rintro rfl; exact .ok rfl rfl) ?_
  refine .ite (fun hpal => ?_) (.ite (fun _ => .error _) (.error _))
  rw [Bool.and_eq_true] at hpal
  exact .ok hpal.2 (congrArg readAt (palAddress_extract addr hpal.1))

end Sys2Proof.Machine

namespace Sys2Proof.Claims

open Sys2Proof.Machine

/-- Settles O2: the row's mask picks the instruction, and the bits it leaves open give the fields back; for the host
operations the address picks it. -/
theorem decodeOfEncode : Obligations.DecodeOfEncode := by
  intro c i hwf
  cases i with
  | jmp side delay addr => exact decodeMicro_jmp side delay addr
  | jmpNotX side delay addr => exact decodeMicro_jmpNotX side delay addr
  | outX side delay => exact decodeMicro_outX side delay
  | nop side delay => exact decodeMicro_nop side delay
  | setPindirs d side delay => exact decodeMicro_setPindirs d side delay
  | imemW i v => exact decodeWrite_imem c i v
  | palR k => exact decodeRead_pal hwf
  | _ => rfl

/-- Settles O3: the code is the fixed bits of the row it matches with its own open bits. -/
theorem encodeOfDecode : Obligations.EncodeOfDecode := by
  refine ⟨fun c w i h => encode_of_decodeMicro h, fun c a i h => ?_⟩
  obtain ⟨write, addr, v⟩ := a
  cases write with
  | true => exact encodesBack_decodeWrite c addr v i h
  | false => exact encodesBack_decodeRead c addr i h

/-- Settles O4: the words that match none of the five rows, with CLASS and the low byte as quotient and remainder. -/
theorem reservedWordsAreIllegal : Obligations.ReservedWordsAreIllegal := by
  intro w
  rw [decodeMicro_eq_error_iff]
  have := w.isLt
  omega

/-- Settles O1: the words and accesses are evaluated. -/
theorem sampleWordsDecode : Obligations.SampleWordsDecode := by
  unfold Obligations.SampleWordsDecode
  decide

end Sys2Proof.Claims
end

section
/-! PROOFS. The statements of spec/40_encoder_instructions.md about the refill and the canonical program: the bit cell,
the words on the wire, the stall, and that the program never faults. -/

namespace Sys2Proof.Machine

/-! ### The refill -/

/-- The count has room for one more shift up to 32 (R14). -/
theorem State.shiftedCount_toNat {s : State} (shifted : Bool) (h : s.osrCount.toNat ≤ 32) :
    (s.shiftedCount shifted).toNat = if shifted then s.osrCount.toNat + 1 else s.osrCount.toNat := by
  have one : (1 : BitVec 6).toNat = 1 := rfl
  cases shifted with
  | false => rfl
  | true => simp only [State.shiftedCount, if_true, BitVec.toNat_add, one]; omega

theorem State.shiftedOsr_eq (s : State) (shifted : Bool) :
    s.shiftedOsr shifted = if shifted then s.osr <<< 1 else s.osr := by
  cases shifted with
  | false => rfl
  | true => exact s.shiftedOsr_true

/-- After a refill no word waits that could be taken. -/
theorem settled_of_refillOutcome {osr : Word} {count : Nat} {fifo : List Word} {t : State}
    (h : Claims.RefillOutcome osr count fifo t) (hthresh : 0 < t.config.pullThresh) :
    ¬ (t.config.pullThresh ≤ t.osrCount.toNat ∧ t.fifo ≠ []) := by
  unfold Claims.RefillOutcome at h
  split at h
  · have hzero : t.osrCount.toNat = 0 := by rw [h.2]; rfl
    omega
  · obtain ⟨-, hcount, hfifo⟩ := h
    rwa [hcount, hfifo]

/-! ### An instruction and its delay -/

/-- An instruction tick that has nothing to take. -/
theorem State.instructionTick_settled {s : State} (h : ¬ (s.config.pullThresh ≤ s.osrCount.toNat ∧ s.fifo ≠ []))
    (side taken : Bool) (addr : BitVec 5) (delay : BitVec 4) :
    s.instructionTick side taken addr delay
      = { s with wsOut := side, pc := s.nextPc taken addr, delayCtr := delay } :=
  State.refill_settled (s := (s.setSide side).complete taken addr delay) h

/-- An instruction with delay `n - 1` holds its level for `n` ticks (R90, R91). -/
theorem encTicks_hold {s t : State} {n : Nat} (hn : 1 ≤ n ∧ n ≤ 16) (tick : encTick s = .next t)
    (settled : ¬ (t.config.pullThresh ≤ t.osrCount.toNat ∧ t.fifo ≠ []))
    (hdelay : t.delayCtr = BitVec.ofNat 4 (n - 1)) :
    encTicks n s = .next { t with delayCtr := 0 } ∧ encTrace n s = List.replicate n t.wsOut := by
  obtain ⟨m, rfl⟩ : ∃ m, n = m + 1 := ⟨n - 1, by omega⟩
  have hcount : t.delayCtr.toNat = m := by
    rw [hdelay, BitVec.toNat_ofNat]
    omega
  obtain ⟨run, trace⟩ := encTicks_delay m settled hcount
  exact ⟨by rw [encTicks_succ tick, run], by rw [encTrace_succ tick, trace, List.replicate_succ]⟩

/-! ### The canonical program -/

theorem State.Canonical.congr {s t : State} (h : s.Canonical) (hconfig : t.config = s.config) (himem : t.imem = s.imem)
    (hbottom : t.wrapBottom = s.wrapBottom) (htop : t.wrapTop = s.wrapTop) : t.Canonical := by
  unfold State.Canonical at h ⊢
  rwa [hconfig, himem, hbottom, htop]

/-- The tick that fetches the loop's `OUT X, 1`. -/
theorem State.AtOut.decode_eq {s : State} (h : s.AtOut) (hl : s.config.legal = true) :
    decodeMicro s.fetchWord = .ok (.outX false (BitVec.ofNat 4 (s.config.t3 - 1))) := by
  obtain ⟨hcanonical, hpc, -⟩ := h
  simpa using hcanonical.decode_eq hl 1 (by rw [hpc]; rfl)

theorem State.AtOut.successor_eq {s : State} (h : s.AtOut) : Claims.successor s = 2 := by
  obtain ⟨⟨-, -, htop⟩, hpc, -⟩ := h
  rw [Claims.successor, hpc, htop]
  rfl

/-- The tick in which the loop's `OUT X, 1` completes (R86). -/
theorem State.AtOut.tick_shifts {s : State} (h : s.AtOut) (hl : s.config.legal = true)
    (hcount : s.osrCount.toNat < s.config.pullThresh) :
    encTick s = .next (s.outShift false (BitVec.ofNat 4 (s.config.t3 - 1))) := by
  have hempty : s.osrEmpty = false := decide_eq_false (Nat.not_le.mpr hcount)
  rw [encTick_of_ok h.2.2 (h.decode_eq hl), exec_outX, hempty, if_neg Bool.false_ne_true]

/-- The low part of a bit cell: `OUT X, 1` and its delay. -/
theorem encTicks_low {s : State} (hl : s.config.legal = true) (h : s.AtOut)
    (hcount : s.osrCount.toNat < s.config.pullThresh) :
    ∃ t, encTicks s.config.t3 s = .next t ∧ encTrace s.config.t3 s = List.replicate s.config.t3 false
      ∧ t = { s with x := s.osr.getLsbD 31, xWritten := true, pc := 2, delayCtr := 0, wsOut := false,
                     osr := t.osr, osrCount := t.osrCount, fifo := t.fifo }
      ∧ Claims.RefillOutcome (s.osr <<< 1) (s.osrCount.toNat + 1) s.fifo t := by
  have ranges := Config.ranges_of_legal hl
  have tick := h.tick_shifts hl hcount
  have frame := Claims.outShift_frame false (BitVec.ofNat 4 (s.config.t3 - 1)) s
  have outcome := Claims.outShift_outcome false (BitVec.ofNat 4 (s.config.t3 - 1)) hl hcount
  rw [h.successor_eq] at frame
  have hc : (s.outShift false (BitVec.ofNat 4 (s.config.t3 - 1))).config = s.config := by rw [frame]
  have settled := settled_of_refillOutcome outcome (by rw [hc, ranges.pullThresh]; decide)
  obtain ⟨run, trace⟩ := encTicks_hold ranges.t3 tick settled (congrArg State.delayCtr frame)
  refine ⟨_, run, by rw [trace, congrArg State.wsOut frame], ?_, outcome⟩
  conv_lhs => rw [frame]

/-- The high part: `JMP !X` and its delay, which goes to the instruction of the bit. -/
theorem encTicks_high {s : State} (hl : s.config.legal = true) (h : s.Canonical) (hpc : s.pc = 2)
    (hd : s.delayCtr = 0) (hx : s.xWritten = true)
    (settled : ¬ (s.config.pullThresh ≤ s.osrCount.toNat ∧ s.fifo ≠ [])) :
    encTicks s.config.t1 s = .next { s with wsOut := true, pc := if s.x then 3 else 4, delayCtr := 0 }
      ∧ encTrace s.config.t1 s = List.replicate s.config.t1 true := by
  have hdec : decodeMicro s.fetchWord = .ok (.jmpNotX true (BitVec.ofNat 4 (s.config.t1 - 1)) 4) := by
    simpa using h.decode_eq hl 2 (by rw [hpc]; rfl)
  have next : s.nextPc (!s.readX) 4 = if s.x then 3 else 4 := by
    rw [State.readX_of_written hx, State.nextPc, hpc, h.2.2]
    cases s.x <;> rfl
  have tick := encTick_of_ok hd hdec
  rw [exec_jmpNotX, State.instructionTick_settled settled, next] at tick
  exact encTicks_hold (Config.ranges_of_legal hl).t1 tick settled rfl

/-- The data part: `JMP` for a 1 and `NOP` for a 0, with their delay, which go back to the `OUT X, 1`. -/
theorem encTicks_data {s : State} (hl : s.config.legal = true) (h : s.Canonical) (b : Bool)
    (hpc : s.pc = if b then 3 else 4) (hd : s.delayCtr = 0)
    (settled : ¬ (s.config.pullThresh ≤ s.osrCount.toNat ∧ s.fifo ≠ [])) :
    encTicks s.config.t2 s = .next { s with wsOut := b, pc := 1, delayCtr := 0 }
      ∧ encTrace s.config.t2 s = List.replicate s.config.t2 b := by
  suffices tick : encTick s
      = .next { s with wsOut := b, pc := 1, delayCtr := BitVec.ofNat 4 (s.config.t2 - 1) } from
    encTicks_hold (Config.ranges_of_legal hl).t2 tick settled rfl
  cases b with
  | true =>
    have hdec : decodeMicro s.fetchWord = .ok (.jmp true (BitVec.ofNat 4 (s.config.t2 - 1)) 1) := by
      simpa using h.decode_eq hl 3 (by rw [hpc]; rfl)
    rw [encTick_of_ok hd hdec, exec_jmp, State.instructionTick_settled settled]
    rfl
  | false =>
    have hdec : decodeMicro s.fetchWord = .ok (.nop false (BitVec.ofNat 4 (s.config.t2 - 1))) := by
      simpa using h.decode_eq hl 4 (by rw [hpc]; rfl)
    have next : s.nextPc false 0 = 1 := by
      rw [State.nextPc, hpc, h.2.2, h.2.1]
      rfl
    rw [encTick_of_ok hd hdec, exec_nop, State.instructionTick_settled settled, next]

/-- A whole bit cell, from one `OUT X, 1` to the next (R97). -/
theorem encTicks_bitCell {s : State} (hl : s.config.legal = true) (h : s.AtOut)
    (hcount : s.osrCount.toNat < s.config.pullThresh) :
    encTrace s.config.cyclesPerBit s = bitCell s.config (s.osr.getLsbD 31)
      ∧ ∃ t, encTicks s.config.cyclesPerBit s = .next t
        ∧ t = { s with x := s.osr.getLsbD 31, xWritten := true, pc := 1, delayCtr := 0, wsOut := s.osr.getLsbD 31,
                       osr := t.osr, osrCount := t.osrCount, fifo := t.fifo }
        ∧ Claims.RefillOutcome (s.osr <<< 1) (s.osrCount.toNat + 1) s.fifo t := by
  have ranges := Config.ranges_of_legal hl
  obtain ⟨t, low, lowTrace, ht, outcome⟩ := encTicks_low hl h hcount
  have hc : t.config = s.config := by rw [ht]
  have canonical : t.Canonical := h.1.congr hc (by rw [ht]) (by rw [ht]) (by rw [ht])
  have settled := settled_of_refillOutcome outcome (by rw [hc, ranges.pullThresh]; decide)
  obtain ⟨high, highTrace⟩ := encTicks_high (hc ▸ hl) canonical (congrArg State.pc ht) (congrArg State.delayCtr ht)
    (congrArg State.xWritten ht) settled
  obtain ⟨data, dataTrace⟩ := encTicks_data
    (s := { t with wsOut := true, pc := if t.x then 3 else 4, delayCtr := 0 }) (hc ▸ hl) canonical t.x rfl rfl settled
  have hx : t.x = s.osr.getLsbD 31 := congrArg State.x ht
  rw [hc] at high highTrace
  simp only [hc] at data dataTrace
  have hcells : s.config.cyclesPerBit = s.config.t3 + s.config.t1 + s.config.t2 := by
    unfold Config.cyclesPerBit; omega
  have lowHigh := (encTicks_add s.config.t3 s.config.t1 low).trans high
  rw [hcells, encTrace_add _ _ lowHigh, encTrace_add _ _ low, lowTrace, highTrace, dataTrace, hx]
  refine ⟨rfl, _, (encTicks_add _ s.config.t2 lowHigh).trans data, ?_,
    by simpa only [Claims.RefillOutcome, hc] using outcome⟩
  rw [hx]
  conv_lhs => rw [ht]

/-! ### The stall -/

/-- With no word waiting a stall sets TXSTALL and holds everything else (R86). -/
theorem State.outStall_of_no_word {s : State} (hfifo : s.fifo = []) (side : Bool) :
    s.outStall side = { s with wsOut := side, dbg := { s.dbg with txstall := true } } := by
  have hempty : (s.setSide side).fifo.isEmpty = true := List.isEmpty_iff.mpr hfifo
  rw [State.outStall, State.noteStall_eq, hempty, Bool.or_true]
  exact State.refill_settled fun hready => hready.2 hfifo

/-- With a word waiting the refill of a stall takes it (R87). -/
theorem State.outStall_of_word {s : State} {w : Word} {rest : List Word} (hfifo : s.fifo = w :: rest)
    (hcount : s.config.pullThresh ≤ s.osrCount.toNat) (side : Bool) :
    s.outStall side = { s with wsOut := side, osr := w, osrCount := 0, fifo := rest } := by
  have hready : (s.setSide side).fifo.isEmpty = false := congrArg List.isEmpty hfifo
  rw [State.outStall, State.noteStall_eq, hready, Bool.or_false]
  exact State.refill_takes (s := s.setSide side) (shifted := false) hfifo hcount

/-! ### What a refill leaves -/

/-- A count below PULL_THRESH takes nothing. -/
theorem kept_of_refillOutcome {osr : Word} {count : Nat} {fifo : List Word} {t : State}
    (h : Claims.RefillOutcome osr count fifo t) (hcount : count < t.config.pullThresh) :
    t.osr = osr ∧ t.osrCount.toNat = count ∧ t.fifo = fifo := by
  rwa [Claims.RefillOutcome, if_neg (by omega)] at h

/-- A count at PULL_THRESH takes the word that waits. -/
theorem taken_of_refillOutcome {osr w : Word} {count : Nat} {rest : List Word} {t : State}
    (h : Claims.RefillOutcome osr count (w :: rest) t) (hcount : t.config.pullThresh ≤ count) :
    t.osr = w ∧ t.osrCount = 0 ∧ t.fifo = rest := by
  rw [Claims.RefillOutcome, if_pos ⟨hcount, List.cons_ne_nil w rest⟩] at h
  obtain ⟨hfifo, hzero⟩ := h
  obtain ⟨hw, hrest⟩ := List.cons.inj hfifo
  exact ⟨hw.symm, hzero, hrest.symm⟩

/-- The bit cells of a word are its first one and then those of the word shifted by one. -/
theorem flatMap_bitCell_succ (c : Config) (w : Word) (n : Nat) :
    (List.range (n + 1)).flatMap (fun j => bitCell c (w.getLsbD (31 - j)))
      = bitCell c (w.getLsbD 31)
        ++ (List.range n).flatMap (fun j => bitCell c (w.getLsbD (31 - (j + 1)))) := by
  rw [List.range_succ_eq_map, List.flatMap_cons, List.flatMap_map]

theorem getLsbD_shiftLeft_one (w : Word) {j : Nat} (hj : j < 31) :
    (w <<< 1).getLsbD (31 - j) = w.getLsbD (31 - (j + 1)) := by
  rw [BitVec.getLsbD_shiftLeft, Nat.sub_sub]
  simp only [decide_eq_true (show 31 - j < 32 by omega), decide_eq_false (show ¬ 31 - j < 1 by omega), Bool.not_false,
    Bool.true_and]

/-! ### Where ENC goes next -/

/-- The target of a jump; the others have none. -/
def jumpTarget : Instr → BitVec 5
  | .jmp _ _ addr => addr
  | .jmpNotX _ _ addr => addr
  | _ => 0

/-- A micro-instruction enters no fault, and it stalls, jumps or goes to the successor (R84). -/
theorem exec_micro_cases {i : Instr} (hi : isMicro i = true) {s e : State} (hx : exec i s = .next e) :
    e.fault = s.fault ∧ (e.pc = s.pc ∨ ∃ taken, e.pc = s.nextPc taken (jumpTarget i)) := by
  cases i with
  | outX side delay =>
    injection hx with hx; subst hx
    split
    · exact ⟨(State.refill_fault ..).trans (State.noteStall_fault _),
        .inl ((State.refill_pc ..).trans (State.noteStall_pc _))⟩
    · exact ⟨State.refill_fault .., .inr ⟨false, State.refill_pc ..⟩⟩
  | jmp side delay addr =>
    injection hx with hx; subst hx
    exact ⟨State.refill_fault .., .inr ⟨true, State.refill_pc ..⟩⟩
  | jmpNotX side delay addr =>
    injection hx with hx; subst hx
    exact ⟨State.refill_fault .., .inr ⟨!s.readX, State.refill_pc ..⟩⟩
  | nop side delay | setPindirs d side delay =>
    injection hx with hx; subst hx
    exact ⟨State.refill_fault .., .inr ⟨false, State.refill_pc ..⟩⟩
  | _ => cases hi

/-- Inside the canonical program the successor is inside it, and so is where a jump to it goes (R84, R96). -/
theorem State.Canonical.nextPc_le {s : State} (h : s.Canonical) (hpc : s.pc.toNat ≤ 4) {addr : BitVec 5}
    (haddr : addr.toNat ≤ 4) (taken : Bool) : (s.nextPc taken addr).toNat ≤ 4 := by
  obtain ⟨-, hbottom, htop⟩ := h
  unfold State.nextPc
  split_ifs with htaken hwrap
  · exact haddr
  · rw [hbottom]; decide
  · rw [htop] at hwrap
    bv_omega

/-- Every fetch of the canonical program decodes, to a jump inside it if to a jump (R96). -/
theorem State.Canonical.decode_cases {s : State} (h : s.Canonical) (hl : s.config.legal = true)
    (hpc : s.pc.toNat ≤ 4) :
    ∃ i, decodeMicro s.fetchWord = .ok i ∧ isMicro i = true ∧ (jumpTarget i).toNat ≤ 4 := by
  have hdec := h.decode_eq hl ⟨s.pc.toNat, by omega⟩ rfl
  simp only [Fin.getElem?_fin] at hdec
  generalize s.pc.toNat = n at hdec hpc
  interval_cases n <;>
    exact ⟨_, Option.some.inj hdec, rfl, by simp [jumpTarget]⟩

/-- A tick inside the canonical program stays inside it and enters no fault. -/
theorem State.Canonical.encTick_stays {s e : State} (h : s.Canonical) (hl : s.config.legal = true) (hpc : s.pc.toNat ≤ 4)
    (tick : encTick s = .next e) : e.fault = s.fault ∧ e.pc.toNat ≤ 4 := by
  obtain ⟨i, hdec, hmicro, htarget⟩ := h.decode_cases hl hpc
  obtain ⟨-, hx⟩ | ⟨-, j, hdec', hx⟩ | ⟨-, r, hdec', -⟩ := encTick_cases s
  · rw [hx] at tick
    injection tick with tick; subst tick
    exact ⟨State.refill_fault .., by rwa [State.delayTick, State.refill_pc]⟩
  · obtain rfl : j = i := Except.ok.inj (hdec'.symm.trans hdec)
    rw [hx] at tick
    obtain ⟨hfault, hstay | ⟨taken, hgo⟩⟩ := exec_micro_cases hmicro tick
    · exact ⟨hfault, hstay ▸ hpc⟩
    · exact ⟨hfault, hgo ▸ h.nextPc_le hpc htarget taken⟩
  · rw [hdec] at hdec'; cases hdec'

/-- A cycle inside the canonical program stays inside it and enters no fault, whatever the host does. -/
theorem State.Canonical.step_stays {s t : State} (h : s.Canonical) (hl : s.config.legal = true) (hpc : s.pc.toNat ≤ 4)
    (hen : s.en = true) (hvalid : s.clkValid = true) (hr : s.nextPort.rstN = true) (hstep : step s = .next t) :
    t.fault = s.fault ∧ t.pc.toNat ≤ 4 := by
  obtain ⟨hs, e, -, -, host, -, -, -, henc, rfl, -⟩ := step_effect hr hstep
  have no_fault : hs.fault = s.fault := (host.fault_of_running hen hvalid).1
  have hview : hs.pc.toNat ≤ 4 := host.pc_eq.symm ▸ hpc
  rw [closeCycle_fault, closeCycle_eq]
  obtain ⟨-, tick, -⟩ | ⟨-, rfl⟩ := henc
  · obtain ⟨-, -, -, -, hbottom, htop, himem⟩ := host.locked hen
    have view : ({ hs with fifo := s.fifo } : State).Canonical := h.congr host.config_eq himem hbottom htop
    obtain ⟨hfault, hpc'⟩ := view.encTick_stays (host.config_eq.symm ▸ hl) hview tick
    exact ⟨hfault.trans no_fault, hpc'⟩
  · exact ⟨no_fault, hview⟩

end Sys2Proof.Machine

namespace Sys2Proof.Claims

open Sys2Proof.Machine

/-- Settles O16: while EN = 1 the host can write neither the program nor WRAP, and the cycle stays inside the
program. -/
theorem canonicalProgramNeverFaults : Obligations.CanonicalProgramNeverFaults := by
  intro s t hl h hpc hen hvalid hcode hr hstep
  obtain ⟨-, -, hvalid', hbottom, htop, himem, -⟩ := step_locked hr hen hstep
  obtain ⟨hfault, hpc'⟩ := h.step_stays hl hpc hen hvalid hr hstep
  exact ⟨h.congr (step_config hstep) himem hbottom htop, hpc', hvalid'.trans hvalid, by rw [hfault, hcode]⟩

/-- Settles O5: a refill is its frame and its outcome, and the count has room for the shift. -/
theorem refillTakesWaitingWord : Obligations.RefillTakesWaitingWord := by
  intro shifted s t
  refine ⟨refill_frame shifted s, fun hcount => ?_⟩
  rw [← State.shiftedOsr_eq, ← State.shiftedCount_toNat shifted hcount]
  exact refill_outcome shifted s

/-- Settles O13: the low, the high and the data part follow each other, and only the `OUT X, 1` shifts. -/
theorem oneBitCellOnThePin : Obligations.OneBitCellOnThePin := by
  intro s hl h hcount
  obtain ⟨trace, t, run, ht, outcome⟩ := encTicks_bitCell hl h hcount
  have canonical : t.Canonical := h.1.congr (by rw [ht]) (by rw [ht]) (by rw [ht]) (by rw [ht])
  have same : SameButEnc s t := by unfold SameButEnc; rw [ht]
  exact ⟨trace, t, run, ⟨canonical, by rw [ht], by rw [ht]⟩, same, by rw [ht], by rw [ht], by rw [ht], by rw [ht],
    outcome⟩

/-- The bits of the OSR still to come leave in order, and then the next word, if one waits, is the OSR (R99, R101). -/
theorem encTicks_restOfWord (n : Nat) {s : State} (hl : s.config.legal = true) (h : s.AtOut)
    (hcount : s.osrCount.toNat + n = 23) :
    encTrace ((n + 1) * s.config.cyclesPerBit) s
        = (List.range (n + 1)).flatMap (fun j => bitCell s.config (s.osr.getLsbD (31 - j)))
      ∧ ∃ t, encTicks ((n + 1) * s.config.cyclesPerBit) s = .next t ∧ t.AtOut ∧ t.config = s.config
        ∧ ∀ w rest, s.fifo = w :: rest → t.osr = w ∧ t.osrCount = 0 ∧ t.fifo = rest := by
  induction n generalizing s with
  | zero =>
    have hthresh := (Config.ranges_of_legal hl).pullThresh
    obtain ⟨trace, t, run, hout, same, -, -, -, -, outcome⟩ := oneBitCellOnThePin s hl h (by omega)
    have hc : t.config = s.config := by rw [same]
    rw [Nat.zero_add, Nat.one_mul]
    refine ⟨by rw [trace]; simp, t, run, hout, hc, fun w rest hfifo => ?_⟩
    rw [hfifo] at outcome
    exact taken_of_refillOutcome outcome (by rw [hc]; omega)
  | succ n ih =>
    have hthresh := (Config.ranges_of_legal hl).pullThresh
    obtain ⟨trace, t, run, hout, same, -, -, -, -, outcome⟩ := oneBitCellOnThePin s hl h (by omega)
    have hc : t.config = s.config := by rw [same]
    obtain ⟨hosr, hcnt, hfifo⟩ := kept_of_refillOutcome outcome (by rw [hc]; omega)
    obtain ⟨traces, u, runs, hout', hc', htaken⟩ := ih (hc ▸ hl) hout (by omega)
    rw [hc] at traces runs hc'
    have hcells : (n + 1 + 1) * s.config.cyclesPerBit
        = s.config.cyclesPerBit + (n + 1) * s.config.cyclesPerBit := by ring
    rw [hcells, encTrace_add _ _ run, encTicks_add _ _ run, trace, traces, hosr,
      flatMap_bitCell_succ s.config s.osr (n + 1)]
    refine ⟨?_, u, runs, hout', hc', hfifo ▸ htaken⟩
    congr 1
    refine List.flatMap_congr fun j hj => ?_
    rw [getLsbD_shiftLeft_one s.osr (by have := List.mem_range.mp hj; omega)]

/-- Settles O14: 24 cells of the OSR take the next word, and so on along the FIFO. -/
theorem queuedWordsOnTheWire : Obligations.QueuedWordsOnTheWire := by
  intro s hl h hcount
  obtain ⟨fifo, hfifo⟩ : ∃ fifo, s.fifo = fifo := ⟨_, rfl⟩
  induction fifo generalizing s with
  | nil =>
    obtain ⟨trace, -⟩ := encTicks_restOfWord 23 hl h (by rw [hcount]; rfl)
    rw [hfifo, List.length_nil, Nat.zero_add, Nat.mul_one, trace]
    exact (List.flatMap_singleton ..).symm
  | cons w rest ih =>
    obtain ⟨trace, t, run, hout, hc, htaken⟩ := encTicks_restOfWord 23 hl h (by rw [hcount]; rfl)
    obtain ⟨hosr, hzero, hrest⟩ := htaken w rest hfifo
    have later := ih t (hc ▸ hl) hout hzero hrest
    rw [hc, hosr, hrest] at later
    have hcells : 24 * s.config.cyclesPerBit * ((w :: rest).length + 1)
        = 24 * s.config.cyclesPerBit + 24 * s.config.cyclesPerBit * (rest.length + 1) := by
      rw [List.length_cons]; ring
    rw [hfifo, hcells, encTrace_add _ _ run, trace, later]
    rfl

/-- The loop's `OUT X, 1` at an OSR just taken completes (R86). -/
theorem encTick_of_fresh {t : State} (hl : t.config.legal = true) (h : t.AtOut) (hfresh : t.osrCount = 0) :
    ∃ u, encTick t = .next u ∧ u.x = t.osr.getLsbD 31 ∧ u.xWritten = true ∧ u.osrCount = 1 ∧ u.pc = 2
      ∧ u.wsOut = false := by
  have hthresh := (Config.ranges_of_legal hl).pullThresh
  have hzero : t.osrCount.toNat = 0 := by rw [hfresh]; rfl
  have frame := outShift_frame false (BitVec.ofNat 4 (t.config.t3 - 1)) t
  rw [h.successor_eq] at frame
  obtain ⟨-, hone, -⟩ := kept_of_refillOutcome
    (outShift_outcome false (BitVec.ofNat 4 (t.config.t3 - 1)) hl (by omega))
    (by rw [frame]; show t.osrCount.toNat + 1 < t.config.pullThresh; omega)
  refine ⟨_, h.tick_shifts hl (by omega), by rw [frame], by rw [frame], BitVec.eq_of_toNat_eq ?_, by rw [frame],
    by rw [frame]⟩
  rw [hone, hzero]
  rfl

/-- Settles O15: with no word the stall repeats itself; a word is taken by the refill at its end, and the next tick
finds the OSR fresh. -/
theorem stallHoldsLowAndEndsByItself : Obligations.StallHoldsLowAndEndsByItself := by
  intro s hl h hen hcount
  have tick := encTick_of_stall h.2.2 (h.decode_eq hl) hcount
  refine ⟨fun hfifo => ?_, fun w rest hfifo => ?_⟩
  · rw [State.outStall_of_no_word hfifo] at tick
    refine ⟨_, tick, rfl, h, (State.stalled_iff _).mpr ⟨hen, h.2.2, ⟨_, _, h.decode_eq hl⟩, hcount⟩⟩
  · rw [State.outStall_of_word hfifo hcount] at tick
    obtain ⟨u, next, hx, hw, hone, hpc, hlow⟩ :=
      encTick_of_fresh (t := { s with wsOut := false, osr := w, osrCount := 0, fifo := rest }) hl h rfl
    exact ⟨_, u, tick, next, rfl, hx, hw, hone, hpc, hlow⟩

end Sys2Proof.Claims
end

section
/-! PROOFS. The statements of spec/41_clock_configurator.md about a whole run and about the arithmetic: the ticks of an
enabled machine, and how near the divider is to the ideal ratio. -/

namespace Sys2Proof.Machine

/-! ### An enabled run -/

/-- A step after which EN = 1 was no reset. -/
theorem noReset_of_enabled {s t : State} (h : step s = .next t) (hen : t.en = true) : s.nextPort.rstN = true := by
  obtain ⟨-, rfl⟩ | ⟨hr, -⟩ := step_cases h
  · cases hen
  · exact hr

/-- One cycle of TICKGEN by numbers: 256 less, and `Q` more in a tick (R116). -/
theorem nextAcc_account {q acc : BitVec 24} (hq : 256 ≤ q.toNat) :
    (nextAcc true q acc).toNat + 256 = acc.toNat + if acc.toNat < 256 then q.toNat else 0 := by
  split
  · rw [nextAcc_tick_toNat hq ‹_›]; omega
  · rw [nextAcc_between_toNat q (Nat.not_lt.mp ‹_›)]; omega

theorem nextAcc_below {q acc : BitVec 24} (hq : 256 ≤ q.toNat) (hacc : acc.toNat < q.toNat) :
    (nextAcc true q acc).toNat < q.toNat := by
  have := nextAcc_account (acc := acc) hq
  split at this <;> omega

/-- In a run whose accumulator starts at 0, `acc` at cycle `n` is the number of ticks so far times `Q` less
`256 * n`. -/
theorem acc_of_enabled_run {run : Nat → State} (hrun : Claims.IsRun run) (hen : ∀ n, (run n).en = true)
    (hstart : (run 0).acc = 0) (hq : 256 ≤ (run 0).dividerQ.toNat) (n : Nat) :
    (run n).dividerQ = (run 0).dividerQ ∧ (run n).acc.toNat < (run 0).dividerQ.toNat
      ∧ ∃ ticks, (run n).acc.toNat + 256 * n = ticks * (run 0).dividerQ.toNat := by
  induction n with
  | zero =>
    have hzero : (run 0).acc.toNat = 0 := by rw [hstart]; rfl
    exact ⟨rfl, by omega, 0, by omega⟩
  | succ n ih =>
    obtain ⟨hsame, hbelow, ticks, haccount⟩ := ih
    have hr := noReset_of_enabled (hrun n) (hen (n + 1))
    obtain ⟨-, hlocked, -⟩ := step_locked hr (hen n) (hrun n)
    rw [step_acc hr (hrun n), hen n, hsame]
    refine ⟨hlocked.trans hsame, nextAcc_below hq hbelow, ?_⟩
    have hnext := nextAcc_account (acc := (run n).acc) hq
    by_cases htick : (run n).acc.toNat < 256
    · rw [if_pos htick] at hnext
      exact ⟨ticks + 1, by linarith⟩
    · rw [if_neg htick] at hnext
      exact ⟨ticks, by linarith⟩

end Sys2Proof.Machine

namespace Sys2Proof.Claims

open Sys2Proof.Machine

/-- Settles O42: a tick is `acc < 256`, and `acc` is the distance of `256 * n` from the next multiple of `Q`. -/
theorem ticksAreFloorMultiples : Obligations.TicksAreFloorMultiples := by
  intro before run hbefore hfirst hrun hen q hq n
  have hq' : (run 0).dividerQ.toNat = q := dividerQ_toNat (run 0)
  have hstart : (run 0).acc = 0 := by
    rw [step_acc (noReset_of_enabled hfirst (hen 0)) hfirst, hbefore, nextAcc_of_disabled]
  obtain ⟨-, hbelow, ticks, haccount⟩ := acc_of_enabled_run hrun hen hstart (by rw [hq']; exact hq) n
  rw [hq'] at hbelow haccount
  constructor
  · rintro ⟨-, htick⟩
    exact ⟨ticks, by omega⟩
  · rintro ⟨k, hk⟩
    have hle : ticks ≤ k := by
      by_contra hlt
      have : k * q + q ≤ ticks * q := by
        rw [← Nat.add_one_mul]
        exact Nat.mul_le_mul_right q (by omega)
      omega
    have := Nat.mul_le_mul_right q hle
    exact ⟨hen n, by omega⟩

/-- Settles O52: the truncated quotient is below the ratio by less than one unit, and the largest ratio is that of the
shortest bit. -/
theorem dividerIsAccurate : Obligations.DividerIsAccurate := by
  refine ⟨fun sysclk => ?_, ?_⟩
  · have hq : dividerOf wsenc sysclk.toNat = sysclk.toNat / 1000 * 256 / 8000 := rfl
    rw [dividerUsable_eq_true_iff, hq]
    omega
  · intro c sysclk hl hlt q
    obtain ⟨ht1, ht2, ht3, hkhz, -⟩ := Config.ranges_of_legal hl
    have hden : dividerDen c = 800 * (c.t1 + c.t2 + c.t3) := by rw [dividerDen, hkhz]; rfl
    have hpos : 2400 ≤ dividerDen c := by omega
    have hpos' : 0 < dividerDen c := Nat.lt_of_lt_of_le (by norm_num) hpos
    have hq : q = sysclk / 1000 * 256 / dividerDen c := rfl
    have hbelow : q * dividerDen c ≤ sysclk / 1000 * 256 := Nat.div_mul_le_self _ _
    have habove : sysclk / 1000 * 256 < (q + 1) * dividerDen c := by
      rw [hq, Nat.mul_comm (_ + 1)]; exact Nat.lt_mul_div_succ _ hpos'
    have hdenQ : (800 * (c.t1 + c.t2 + c.t3) : ℚ) = dividerDen c := by rw [hden]; push_cast; ring
    have hposQ : (0 : ℚ) < dividerDen c := by exact_mod_cast hpos'
    have hbelowQ : (q : ℚ) * dividerDen c ≤ (sysclk / 1000 : Nat) * 256 := by exact_mod_cast hbelow
    have haboveQ : ((sysclk / 1000 : Nat) : ℚ) * 256 < (q + 1) * dividerDen c := by exact_mod_cast habove
    rw [hdenQ]
    refine ⟨?_, ?_, ?_⟩
    · rw [div_le_div_iff₀ (by norm_num) hposQ]
      exact hbelowQ
    · rw [sub_lt_iff_lt_add, ← add_div, div_lt_div_iff₀ hposQ (by norm_num), add_comm 1]
      exact haboveQ
    · calc q ≤ sysclk / 1000 * 256 / 2400 := Nat.div_le_div_left hpos (by norm_num)
        _ < 2 ^ 19 := by omega

end Sys2Proof.Claims
end

section
/-! PROOFS. The statements of spec/44_color_engine.md about a PALGEN and the palette it leaves, and of
spec/42_pixel_word_codec.md. -/

namespace Sys2Proof.Machine

/-! ### A PALGEN -/

/-- The cycle that presents PALGEN.W while none is in progress starts one (R166). -/
theorem step_of_palgen {s t : State} {v : Word} (hr : s.nextPort.rstN = true) (hidle : s.palBusy = false)
    (haccess : s.nextPort.access = some ⟨true, 0x0B#8, v⟩) (h : step s = .next t) :
    t.palBusy = true ∧ t.palDone = false ∧ t.palTimer = s.config.palLatency := by
  obtain ⟨hs, e, -, hhost, -, -, -, -, henc, rfl, -⟩ := step_effect hr h
  have hstart : hs = s.openCycle.startPalgen := by
    rw [haccess] at hhost
    have hexec : hostCycle (some ⟨true, 0x0B#8, v⟩) s.openCycle = exec (.palgenW v) s.openCycle := rfl
    rw [hexec, exec_palgenW, State.openCycle_palBusy, hidle, if_neg Bool.false_ne_true] at hhost
    injection hhost with hhost
    exact hhost.symm
  have kept : e.palBusy = hs.palBusy ∧ e.palDone = hs.palDone ∧ e.palTimer = hs.palTimer := by
    obtain ⟨-, -, enc⟩ | ⟨-, rfl⟩ := henc
    · exact ⟨enc.palBusy_eq, enc.palDone_eq, enc.palTimer_eq⟩
    · exact ⟨rfl, rfl, rfl⟩
  obtain ⟨hbusy, hdone, htimer⟩ := kept
  rw [closeCycle_eq, State.openCycle_palBusy]
  simp [hidle, hbusy, hdone, htimer, hstart]

/-- While a PALGEN runs the timer counts the cycles left (R166). -/
theorem palgen_running {run : Nat → State} {latency : Nat} (hrun : Claims.IsRun run)
    (hr : ∀ n, (run n).nextPort.rstN = true) (hbusy : (run 1).palBusy = true) (hdone : (run 1).palDone = false)
    (htimer : (run 1).palTimer = latency) (n : Nat) (hn : n < latency) :
    (run (n + 1)).palBusy = true ∧ (run (n + 1)).palDone = false ∧ (run (n + 1)).palTimer = latency - n := by
  induction n with
  | zero => exact ⟨hbusy, hdone, htimer⟩
  | succ n ih =>
    obtain ⟨hb, hd, ht⟩ := ih (by omega)
    obtain ⟨-, -, -, hd', hb', ht'⟩ | ⟨-, hle, -⟩ | ⟨hidle, -⟩ | ⟨hidle, -⟩ := step_color (hr (n + 1)) (hrun (n + 1))
    · exact ⟨hb', hd'.trans hd, by omega⟩
    · omega
    · rw [hb] at hidle; cases hidle
    · rw [hb] at hidle; cases hidle

theorem run_config {run : Nat → State} (hrun : Claims.IsRun run) (n : Nat) : (run n).config = (run 0).config := by
  induction n with
  | zero => rfl
  | succ n ih => exact (step_config (hrun n)).trans ih

/-! ### PAL.R -/

theorem exec_palR_of_index {s : State} {k : BitVec 7} (hk : k.toNat < s.config.nLeds) :
    exec (.palR k) s = .next { s with
      draws := s.palDraws k.toNat, hRdata := some ((s.palEntry k.toNat).setWidth 32) } := by
  have hindex : paletteIndexOk s.config k = true := decide_eq_true hk
  rw [exec_palR, if_pos hindex]
  rfl

/-! ### PACK -/

/-- The bytes of a packed word, from the top down (R125). -/
theorem pack_bytes (p : Pixel) : (pack p).extractLsb' 24 8 = p.g ∧ (pack p).extractLsb' 16 8 = p.r
    ∧ (pack p).extractLsb' 8 8 = p.b ∧ (pack p).extractLsb' 0 8 = 0 := by
  have bytes (start : Nat) := extractLsb'_toNat_eq_mod (pack p) start 8
  simp only [pack_toNat] at bytes
  refine ⟨BitVec.eq_of_toNat_eq ?_, BitVec.eq_of_toNat_eq ?_, BitVec.eq_of_toNat_eq ?_, BitVec.eq_of_toNat_eq ?_⟩ <;>
    rw [bytes]
  · omega
  · omega
  · omega
  · show _ = 0
    omega

/-! ### GammaEncode -/

/-- In a rising list the entries at or below `u` are the first ones. -/
theorem lt_countP_le_iff {l : List Nat} (hl : l.Pairwise (· ≤ ·)) (u : Nat) (i : Nat) :
    i < l.countP (fun t => decide (t ≤ u)) ↔ ∃ t ∈ l[i]?, t ≤ u := by
  induction l generalizing i with
  | nil => simp
  | cons a l ih =>
    obtain ⟨ha, hl⟩ := List.pairwise_cons.mp hl
    by_cases hau : a ≤ u
    · rw [List.countP_cons_of_pos (by simpa using hau)]
      cases i with
      | zero => simp [hau]
      | succ i => simpa using ih hl i
    · have hnone : l.countP (fun t => decide (t ≤ u)) = 0 :=
        List.countP_eq_zero.mpr fun t ht => by have := ha t ht; simp; omega
      rw [List.countP_cons_of_neg (by simpa using hau), hnone]
      cases i with
      | zero => simpa using hau
      | succ i =>
        have := (ih hl i).not.mp (by omega)
        simpa using this

theorem gammaLut_length : gammaLut.length = 256 := by decide +kernel

theorem gammaLut_rising : gammaLut.Pairwise (· < ·) := by
  rw [← List.isChain_iff_pairwise]
  decide +kernel

theorem gammaLut_le : ∀ t ∈ gammaLut, t ≤ 65535 := by decide +kernel

/-- The number of thresholds at or below `u` is above a code exactly if the code's own threshold is at or below `u`. -/
theorem lt_count_iff {c : Nat} (hc : c ≤ 255) (u : Nat) :
    c < gammaLut.countP (fun t => decide (t ≤ u)) ↔ gammaLut[c]?.getD 0 ≤ u := by
  have hlt : c < gammaLut.length := by rw [gammaLut_length]; omega
  rw [lt_countP_le_iff (gammaLut_rising.imp Nat.le_of_lt), List.getElem?_eq_getElem hlt]
  simp

theorem count_bounds (u : Nat) : 1 ≤ gammaLut.countP (fun t => decide (t ≤ u))
    ∧ gammaLut.countP (fun t => decide (t ≤ u)) ≤ 256 :=
  ⟨(lt_count_iff (Nat.zero_le 255) u).mpr (Nat.zero_le u), gammaLut_length ▸ List.countP_le_length⟩

theorem gammaEncode_mono {u v : Nat} (h : u ≤ v) : gammaEncode u ≤ gammaEncode v := by
  refine Nat.sub_le_sub_right (List.countP_mono_left fun t _ ht => ?_) 1
  rw [decide_eq_true_eq] at ht ⊢
  exact Nat.le_trans ht h

/-- A code is the code of what lies between its threshold and the next one. -/
theorem gammaEncode_eq {u c : Nat} (hc : c ≤ 255) (hle : gammaLut[c]?.getD 0 ≤ u)
    (hlt : c < 255 → u < gammaLut[c + 1]?.getD 0) : gammaEncode u = c := by
  have above := (lt_count_iff hc u).mpr hle
  have below : gammaLut.countP (fun t => decide (t ≤ u)) ≤ c + 1 := by
    by_cases h : c < 255
    · exact Nat.not_lt.mp fun hn => Nat.not_lt.mpr ((lt_count_iff (by omega) u).mp hn) (hlt h)
    · have := (count_bounds u).2
      omega
  unfold gammaEncode
  omega

end Sys2Proof.Machine

namespace Sys2Proof.Claims

open Sys2Proof.Machine

/-- Settles O28: the cycle of the write starts the timer, the cycles after it count it down, and the last writes the
palette of parameters no cycle changes. -/
theorem palgenFinishesAfterLatency : Obligations.PalgenFinishesAfterLatency := by
  intro run v hrun hr hl hidle haccess
  obtain ⟨hbusy, hdone, htimer⟩ := step_of_palgen (hr 0) hidle haccess (hrun 0)
  have running := palgen_running hrun hr hbusy hdone htimer
  have hlatency := (Config.ranges_of_legal hl).palLatency
  generalize hL : (run 0).config.palLatency = latency at *
  obtain ⟨last, rfl⟩ : ∃ last, latency = last + 1 := ⟨latency - 1, by omega⟩
  refine ⟨fun n hn hle => ?_, ?_⟩
  · obtain ⟨m, rfl⟩ : ∃ m, n = m + 1 := ⟨n - 1, by omega⟩
    obtain ⟨hb, hd, -⟩ := running m (by omega)
    exact ⟨hb, hd⟩
  · obtain ⟨hb, -, ht⟩ := running last (by omega)
    obtain ⟨-, hgt, -⟩ | ⟨-, -, hpal, hd', hb', -⟩ | ⟨hidle, -⟩ | ⟨hidle, -⟩ :=
      step_color (hr (last + 1)) (hrun (last + 1))
    · omega
    · exact ⟨hb', hd', hpal.trans (congrArg paletteOf (run_config hrun (last + 1)))⟩
    · rw [hb] at hidle; cases hidle
    · rw [hb] at hidle; cases hidle

/-- Settles O30: the value read is the entry if PAL_DONE = 1, and it is free otherwise. -/
theorem palReadAnswersEntry : Obligations.PalReadAnswersEntry := by
  intro k s hk
  refine ⟨fun e hdone hread => ?_, fun _ => ⟨_, _, exec_palR_of_index hk⟩⟩
  have hentry : s.palEntry k.toNat = e := by simp only [State.palEntry, hdone, hread]
  have hdraws : s.palDraws k.toNat = s.draws := by simp only [State.palDraws, hdone, hread]
  rw [exec_palR_of_index hk, hentry, hdraws]

/-- Settles O53: the bytes of the sum are g, r, b and 0, and unpacking reads them. -/
theorem packLayout : Obligations.PackLayout := by
  intro p
  obtain ⟨hg, hr, hb, hlow⟩ := pack_bytes p
  exact ⟨pack_toNat p, hg, hr, hb, hlow, by rw [unpack, hr, hg, hb]⟩

/-- Settles O54: the table rises, so the thresholds at or below `u` are the first ones, and each threshold has its own
code. -/
theorem gammaEncodeIsLargestCode : Obligations.GammaEncodeIsLargestCode := by
  refine ⟨fun u _ => ?_, fun u v => gammaEncode_mono, fun c hc => ?_⟩
  · obtain ⟨hpos, hle⟩ := count_bounds u
    have hcode : gammaEncode u ≤ 255 := by unfold gammaEncode; omega
    refine ⟨hcode, (lt_count_iff hcode u).mp (by unfold gammaEncode; omega), fun c hc hthreshold => ?_⟩
    have := (lt_count_iff hc u).mpr hthreshold
    unfold gammaEncode
    omega
  · have hlt : c < gammaLut.length := by rw [gammaLut_length]; omega
    refine ⟨gammaLut[c]?.getD 0, ?_, gammaEncode_eq hc (Nat.le_refl _) fun hnext => ?_⟩
    · rw [List.getElem?_eq_getElem hlt]
      exact gammaLut_le _ (List.getElem_mem hlt)
    · have hlt' : c + 1 < gammaLut.length := by rw [gammaLut_length]; omega
      rw [List.getElem?_eq_getElem hlt, List.getElem?_eq_getElem hlt']
      exact List.pairwise_iff_getElem.mp gammaLut_rising c (c + 1) hlt hlt' (Nat.lt_succ_self c)

end Sys2Proof.Claims
end

section
/-! PROOFS. The statements of spec/44_color_engine.md and spec/95_test_vectors.md about the default palette and the hue
rotation. -/

namespace Sys2Proof.Machine

/-! ### The codes the range of LIN16 allows -/

theorem pixelOfLin_congr {lin lin' : Channel → Nat} (h : ∀ ch, gammaEncode (lin ch) = gammaEncode (lin' ch)) :
    pixelOfLin lin = pixelOfLin lin' := by
  simp only [pixelOfLin, h]

/-- The code of LIN16 lies between the codes of the ends of its range. -/
theorem gammaEncode_lin16_between {c : Config} {k : Nat} {ch : Channel} (h : lin16Low c k ch ≤ lin16High c k ch) :
    gammaEncode (lin16Low c k ch) ≤ gammaEncode (lin16 c k ch)
      ∧ gammaEncode (lin16 c k ch) ≤ gammaEncode (lin16High c k ch) :=
  ⟨gammaEncode_mono (lin16Low_le c k ch), gammaEncode_mono (lin16_le_high h)⟩

theorem mem_channels (ch : Channel) : ch ∈ [Channel.r, .g, .b] := by cases ch <;> decide

/-- For this hardware the whole range has one code, but for the green of colour 9. -/
theorem wsenc_codes_settled : ∀ k < 12, ∀ ch ∈ [Channel.r, .g, .b], (k = 9 → ch ≠ .g) →
    gammaEncode (lin16High wsenc k ch) = gammaEncode (lin16Low wsenc k ch) := by
  decide +kernel

theorem wsenc_gammaEncode_lin16 {k : Nat} (hk : k < 12) {ch : Channel} (h : k = 9 → ch ≠ .g) :
    gammaEncode (lin16 wsenc k ch) = gammaEncode (lin16Low wsenc k ch) := by
  obtain ⟨hlow, hhigh⟩ := gammaEncode_lin16_between (wsenc_rangeSettled k hk ch (mem_channels ch)).1
  rw [wsenc_codes_settled k hk ch (mem_channels ch) h] at hhigh
  exact Nat.le_antisymm hhigh hlow

theorem palette_read {k : Nat} (hk : k < 12) : palette.read k = some (pixelEntry (pixelOfLin (lin16 wsenc k))) :=
  (paletteOf_read wsenc k).trans (if_pos hk)

/-- The twelve colours at the lower ends of the ranges. -/
theorem wsenc_low_pixels : ∀ k < 12, k ≠ 9 → some (entryImage (pixelEntry (pixelOfLin (lin16Low wsenc k)))) =
    ([0x00BD3F41#32, 0x00A75414#32, 0x00836800#32, 0x00557500#32, 0x00007D35#32, 0x00008066#32,
      0x00008097#32, 0x00007CBC#32, 0x000072CB#32, 0#32, 0x00A1489E#32, 0x00BD3770#32] : List Word)[k]? := by
  decide +kernel

theorem wsenc_codes_nine : gammaEncode (lin16Low wsenc 9 .r) = 0x62 ∧ gammaEncode (lin16Low wsenc 9 .g) = 0x5F
    ∧ gammaEncode (lin16High wsenc 9 .g) = 0x60 ∧ gammaEncode (lin16Low wsenc 9 .b) = 0xC0 := by
  decide +kernel

/-! ### Degrees modulo 360 -/

theorem mod360_eq_of_sub {x y : ℝ} (m : ℤ) (h : x - y = 360 * m) : mod360 x = mod360 y := by
  have hfloor : ⌊x / 360⌋ = ⌊y / 360⌋ + m := by
    rw [← Int.floor_add_intCast]
    congr 1
    linarith
  unfold mod360
  rw [hfloor]
  push_cast
  linarith

/-- Reducing the terms of a difference first changes nothing. -/
theorem mod360_sub_mod360 (x y : ℝ) : mod360 (mod360 x - mod360 y) = mod360 (x - y) := by
  refine mod360_eq_of_sub (⌊y / 360⌋ - ⌊x / 360⌋) ?_
  unfold mod360
  push_cast
  ring

end Sys2Proof.Machine

namespace Sys2Proof.Claims

open Sys2Proof.Machine

/-- Settles O57: every colour but 9 has one code in the whole range of LIN16; the range of colour 9's green has two. -/
theorem defaultPalettePixels : Obligations.DefaultPalettePixels := by
  refine ⟨fun k hk hne => ?_, ?_, fun k hk => (paletteOf_read wsenc k).trans (if_neg (Nat.not_lt.mpr hk))⟩
  · have hpixel : pixelOfLin (lin16 wsenc k) = pixelOfLin (lin16Low wsenc k) :=
      pixelOfLin_congr fun ch => wsenc_gammaEncode_lin16 hk fun h9 => absurd h9 hne
    rw [palette_read hk, hpixel]
    exact wsenc_low_pixels k hk hne
  · obtain ⟨hr, hlow, hhigh, hb⟩ := wsenc_codes_nine
    have red := (wsenc_gammaEncode_lin16 (k := 9) (by decide) (ch := .r) fun _ => by decide).trans hr
    have blue := (wsenc_gammaEncode_lin16 (k := 9) (by decide) (ch := .b) fun _ => by decide).trans hb
    obtain ⟨hge, hle⟩ :=
      gammaEncode_lin16_between (wsenc_rangeSettled 9 (by decide) .g (mem_channels .g)).1
    rw [palette_read (by decide), pixelOfLin, red, blue]
    obtain green | green : gammaEncode (lin16 wsenc 9 .g) = 0x5F ∨ gammaEncode (lin16 wsenc 9 .g) = 0x60 := by omega
    · rw [green]; exact .inl rfl
    · rw [green]; exact .inr rfl

/-- Settles O58: the polar form is chroma times the cosine and the sine of a sum of angles. -/
theorem hueRotationIsPlaneRotation : Obligations.HueRotationIsPlaneRotation := fun c k =>
  ⟨refAAt_eq_rotation c k, refBAt_eq_rotation c k⟩

/-- Settles O59: reduction modulo 360 passes through the differences, and N steps of 360/N are a whole turn. -/
theorem hueRotationCloses : Obligations.HueRotationCloses := by
  intro c hN
  have hN' : (c.nLeds : ℝ) ≠ 0 := by exact_mod_cast (by omega : c.nLeds ≠ 0)
  have turn : (c.nLeds : ℝ) * (360 / c.nLeds) = 360 := by field_simp
  refine ⟨fun k _ => ?_, ?_, mod360_eq_of_sub 1 ?_⟩
  · rw [refHueAt, refHueAt, mod360_sub_mod360]
    congr 1
    push_cast
    ring
  · rw [refHueAt, refHueAt, mod360_sub_mod360]
    refine mod360_eq_of_sub (-1) ?_
    push_cast [Nat.cast_sub hN]
    linarith
  · push_cast
    linarith

end Sys2Proof.Claims
end

section
/-! PROOFS. With DARKEN = 1 the stages of the reference function cancel for colour 0: over the real numbers exactly, in
fixed point up to a few units (spec/44_color_engine.md section 5). -/

namespace Sys2Proof.Machine

/-! ### Over the real numbers -/

/-- `finv` undoes `f`: both take the same branch, and on it they are inverse (R170, R175). -/
theorem refFinv_refF (t : ℝ) : refFinv (refF t) = t := by
  unfold refF
  split_ifs with h
  · have hcube : (t ^ (1 / 3 : ℝ)) ^ 3 = t := rpow_third_pow_three (le_trans (by norm_num [refEps]) h.le)
    rw [refFinv, hcube, if_pos h]
  · have hbelow : (refKappa * t + 16) / 116 ≤ 6 / 29 := by
      unfold refKappa
      unfold refEps at h
      linarith
    have hcube : ((refKappa * t + 16) / 116) ^ 3 ≤ refEps := by
      calc ((refKappa * t + 16) / 116) ^ 3 ≤ (6 / 29 : ℝ) ^ 3 := (Odd.strictMono_pow (by decide)).monotone hbelow
        _ = refEps := by norm_num [refEps]
    rw [refFinv, if_neg (not_lt.mpr hcube)]
    unfold refKappa
    ring

/-- Colour 0 keeps the hue, and DARKEN = 1 the lightness, so stage 8 gets what stage 3 gave. -/
theorem refXyzAt_zero {c : Config} (hone : c.darken.num = c.darken.den) (hden : 0 < c.darken.den) :
    refXyzAt c 0 = refXyz c := by
  have hd : (c.darken.den : ℝ) ≠ 0 := by exact_mod_cast hden.ne'
  have hL : refDarkL c = refL c := by rw [refDarkL, hone, div_self hd, one_mul]
  have hA : refAAt c 0 = refA c := by rw [refAAt_eq_rotation]; simp [radians]
  have hB : refBAt c 0 = refB c := by rw [refBAt_eq_rotation]; simp [radians]
  have fy : (refL c + 16) / 116 = refFxyz c 1 := by unfold refL; ring
  have fx : refFxyz c 1 + refA c / 500 = refFxyz c 0 := by unfold refA; ring
  have fz : refFxyz c 1 - refB c / 200 = refFxyz c 2 := by unfold refB; ring
  ext i
  rw [refXyzAt]
  simp only [hL, hA, hB, fy, fx, fz]
  fin_cases i <;> simp [refFxyz, refFinv_refF, refWhite] <;> ring

theorem refMatrix_inv_mulVec (x : Fin 3 → ℝ) : refMatrix⁻¹.mulVec (refMatrix.mulVec x) = x := by
  have hdet : refMatrix.det ≠ 0 := by
    rw [Matrix.det_fin_three]
    simp [refMatrix]
    norm_num
  rw [Matrix.mulVec_mulVec, Matrix.nonsing_inv_mul _ (isUnit_iff_ne_zero.mpr hdet), Matrix.one_mulVec]

/-- With DARKEN = 1 colour 0 is the base colour. -/
theorem refLin_zero {c : Config} (hone : c.darken.num = c.darken.den) (hden : 0 < c.darken.den) :
    refLin c 0 = fun i => refEotf (refBase c i) := by
  rw [refLin, refXyzAt_zero hone hden, refXyz, refMatrix_inv_mulVec]

/-! ### In fixed point -/

/-- The cube of a fixed-point number, rounded down twice, is the cube less a few units. -/
theorem fixCube_bounds {F r : ℤ} (hF : 0 < F) (hr : 0 ≤ r) (hle : r ≤ 2 * F) :
    (r * r / F * r / F) * F ^ 2 ≤ r ^ 3 ∧ r ^ 3 < (r * r / F * r / F + 3) * F ^ 2 := by
  have square_le := Int.ediv_mul_le (r * r) hF.ne'
  have lt_square := Int.lt_ediv_add_one_mul_self (r * r) hF
  generalize r * r / F = m at *
  have cube_le := Int.ediv_mul_le (m * r) hF.ne'
  have lt_cube := Int.lt_ediv_add_one_mul_self (m * r) hF
  generalize m * r / F = c at *
  constructor
  · calc c * F ^ 2 = c * F * F := by ring
      _ ≤ m * r * F := by gcongr
      _ = m * F * r := by ring
      _ ≤ r * r * r := by gcongr
      _ = r ^ 3 := by ring
  · calc r ^ 3 = r * r * r := by ring
      _ ≤ (m + 1) * F * r := by gcongr
      _ = m * r * F + F * r := by ring
      _ < (c + 1) * F * F + F * (2 * F) := add_lt_add_of_lt_of_le (by gcongr) (by gcongr)
      _ = (c + 3) * F ^ 2 := by ring

/-- The cube root of stage 3, rounded down. -/
theorem labFix_cube_bounds {t : ℤ} (hbranch : 216 * (fixOne : ℤ) < 24389 * t) (hle : t ≤ 2 * fixOne) :
    0 ≤ labFix t ∧ labFix t ^ 3 ≤ t * fixOne ^ 2 ∧ t * fixOne ^ 2 < (labFix t + 1) ^ 3 := by
  obtain ⟨m, rfl⟩ := Int.eq_ofNat_of_zero_le (show 0 ≤ t by omega)
  have hstart : m * fixOne ^ 2 < (0 + 2 ^ 160) ^ 3 := by
    calc m * fixOne ^ 2 ≤ 2 * fixOne * fixOne ^ 2 := Nat.mul_le_mul_right _ (by exact_mod_cast hle)
      _ < (0 + 2 ^ 160) ^ 3 := by decide
  obtain ⟨hroot, hnext⟩ := rootSearch_spec 3 _ 160 0 (Nat.zero_le _) hstart
  rw [labFix, if_pos hbranch, Int.toNat_natCast]
  exact ⟨Int.natCast_nonneg _, by exact_mod_cast hroot, by exact_mod_cast hnext⟩

/-- On the cube root branch of `f` and the cube branch of `finv`, or on its linear branch just below `eps`. -/
theorem labInvFix_labFix_root {t : ℤ} (hbranch : 216 * (fixOne : ℤ) < 24389 * t) (hle : t ≤ 2 * fixOne) :
    |labInvFix (labFix t) - t| ≤ 20 := by
  obtain ⟨hr, hroot, hnext⟩ := labFix_cube_bounds hbranch hle
  have hF : (1000 : ℤ) ≤ fixOne := by decide
  unfold labInvFix
  generalize labFix t = r at *
  generalize (fixOne : ℤ) = F at *
  have hr2 : r ≤ 2 * F := by
    refine le_of_pow_le_pow_left₀ (n := 3) (by norm_num) (by omega) ?_
    nlinarith [sq_nonneg F]
  obtain ⟨cube_le, lt_cube⟩ := fixCube_bounds (by omega) hr hr2
  simp only
  generalize r * r / F * r / F = c at *
  have hF2 : (0 : ℤ) < F ^ 2 := by positivity
  have cube_le_t : c ≤ t := le_of_mul_le_mul_right (cube_le.trans hroot) hF2
  have t_lt_cube : t < c + 16 := by
    refine lt_of_mul_lt_mul_right (a := F ^ 2) ?_ hF2.le
    nlinarith
  rw [abs_le]
  split_ifs with hc
  · constructor <;> omega
  · have root_ge : 6 * F < 29 * (r + 1) := by
      refine lt_of_pow_lt_pow_left₀ 3 (by omega) ?_
      nlinarith
    have root_le : 29 * r < 6 * F + 700 := by
      refine lt_of_pow_lt_pow_left₀ 3 (by omega) ?_
      nlinarith
    constructor <;> omega

/-- On the linear branch of both. -/
theorem labInvFix_labFix_linear {t : ℤ} (h0 : 0 ≤ t) (hbranch : ¬ 216 * (fixOne : ℤ) < 24389 * t) :
    |labInvFix (labFix t) - t| ≤ 20 := by
  rw [labFix, if_neg hbranch]
  unfold labInvFix
  have hF : (1000 : ℤ) ≤ fixOne := by decide
  generalize (fixOne : ℤ) = F at *
  generalize hu : (24389 * t / 27 + 16 * F) / 116 = u
  have hu6 : 29 * u ≤ 6 * F := by omega
  obtain ⟨cube_le, -⟩ := fixCube_bounds (F := F) (r := u) (by omega) (by omega) (by omega)
  have hlinear : ¬ 216 * F < 24389 * (u * u / F * u / F) := by
    refine not_lt.mpr (le_of_mul_le_mul_right (a := F ^ 2) ?_ (by positivity))
    have : (29 * u) ^ 3 ≤ (6 * F) ^ 3 := pow_le_pow_left₀ (by omega) hu6 3
    nlinarith
  simp only [hlinear, if_false]
  rw [abs_le]
  constructor <;> omega

/-- `labInvFix` undoes `labFix` up to a few units. -/
theorem labInvFix_labFix {t : ℤ} (h0 : 0 ≤ t) (hle : t ≤ 2 * fixOne) : |labInvFix (labFix t) - t| ≤ 20 := by
  by_cases hbranch : 216 * (fixOne : ℤ) < 24389 * t
  · exact labInvFix_labFix_root hbranch hle
  · exact labInvFix_labFix_linear h0 hbranch

theorem refEotf_le_one {e : ℝ} (h0 : 0 ≤ e) (h1 : e ≤ 1) : refEotf e ≤ 1 := by
  unfold refEotf
  split_ifs
  · rw [div_le_one (by norm_num)]
    linarith
  · refine Real.rpow_le_one (by positivity) ?_ (by norm_num)
    rw [div_le_one (by norm_num)]
    linarith

theorem fracInUnit_of_legal {c : Config} (hl : c.legal = true) :
    Config.fracInUnit c.baseR = true ∧ Config.fracInUnit c.baseG = true ∧ Config.fracInUnit c.baseB = true := by
  simp only [Config.legal, Bool.and_eq_true] at hl
  tauto

theorem fracInUnit_div {f : Frac} (h : Config.fracInUnit f = true) :
    0 ≤ (f.num / f.den : ℝ) ∧ (f.num / f.den : ℝ) ≤ 1 := by
  simp only [Config.fracInUnit, Bool.and_eq_true, decide_eq_true_eq] at h
  exact ⟨by positivity, (div_le_one (by exact_mod_cast h.1)).mpr (by exact_mod_cast h.2)⟩

theorem eotfFix_le {f : Frac} (h : Config.fracInUnit f = true) : eotfFix f ≤ fixOne := by
  obtain ⟨h0, h1⟩ := fracInUnit_div h
  simp only [Config.fracInUnit, Bool.and_eq_true, decide_eq_true_eq] at h
  rw [eotfFix_eq_floor h.1 h.2]
  refine Nat.floor_le_of_le ?_
  calc (fixOne : ℝ) * refEotf (f.num / f.den) ≤ fixOne * 1 := by gcongr; exact refEotf_le_one h0 h1
    _ = fixOne := mul_one _

theorem Near.of_close {e d : ℕ} {z z' : ℤ} {x : ℝ} (h : Near e z x) (hclose : |z' - z| ≤ d) : Near (d + e) z' x := by
  have hclose' : |(z' : ℝ) - z| ≤ d := by exact_mod_cast hclose
  unfold Near at *
  push_cast
  exact (abs_sub_le _ (z : ℝ) _).trans (add_le_add hclose' h)

/-- The XYZ of colours inside the unit cube, through stage 3 and back through stage 8. -/
theorem NearTriple.labToXyz_xyzToLab {c : Config} {t : Triple} (h : NearTriple 3 t (refXyz c))
    (hu : 0 ≤ t.u ∧ t.u ≤ fixOne) (hv : 0 ≤ t.v ∧ t.v ≤ 2 * fixOne) (hw : 0 ≤ t.w ∧ t.w ≤ 2 * fixOne) :
    NearTriple 33 (Machine.labToXyz (Machine.xyzToLab t)) (refXyz c) := by
  rw [Machine.labToXyz_xyzToLab]
  have near_x := abs_le.mp (labInvFix_labFix (t := t.u * 100000 / 95047) (by omega) (by omega))
  have near_y := abs_le.mp (labInvFix_labFix (t := t.v) (by omega) (by omega))
  have near_z := abs_le.mp (labInvFix_labFix (t := t.w * 100000 / 108883) (by omega) (by omega))
  exact ⟨h.u.of_close (d := 30) (abs_le.mpr ⟨by push_cast; omega, by push_cast; omega⟩),
    h.v.of_close (d := 30) (abs_le.mpr ⟨by push_cast; omega, by push_cast; omega⟩),
    h.w.of_close (d := 30) (abs_le.mpr ⟨by push_cast; omega, by push_cast; omega⟩)⟩

/-- With DARKEN = 1 the fixed-point reference of colour 0 is the base colour up to a few units. -/
theorem near_refLinFix_zero {c : Config} (hone : c.darken.num = c.darken.den) (hden : 0 < c.darken.den)
    (hl : c.legal = true) : NearTriple 200 (refLinFix c 0) fun i => refEotf (refBase c i) := by
  obtain ⟨hr, hg, hb⟩ := fracInUnit_of_legal hl
  have near_xyz : NearTriple 3 (rgbToXyz (baseLinear c)) (refXyz c) := (near_baseLinear hr hg hb).rgbToXyz
  have hr1 : (baseLinear c).u ≤ fixOne := Int.ofNat_le.mpr (eotfFix_le hr)
  have hg1 : (baseLinear c).v ≤ fixOne := Int.ofNat_le.mpr (eotfFix_le hg)
  have hb1 : (baseLinear c).w ≤ fixOne := Int.ofNat_le.mpr (eotfFix_le hb)
  have hr0 : 0 ≤ (baseLinear c).u := Int.natCast_nonneg _
  have hg0 : 0 ≤ (baseLinear c).v := Int.natCast_nonneg _
  have hb0 : 0 ≤ (baseLinear c).w := Int.natCast_nonneg _
  have back := near_xyz.labToXyz_xyzToLab (by simp only [rgbToXyz]; omega) (by simp only [rgbToXyz]; omega)
    (by simp only [rgbToXyz]; omega)
  have rgb := back.xyzToRgb.mono (show 6 * 33 + 1 ≤ 200 by norm_num)
  rw [refXyz, refMatrix_inv_mulVec] at rgb
  rw [refLinFix, rotateHue_zero, darkenLab_one hone hden]
  exact rgb

/-! ### The codes near a base colour of 8-bit codes -/

/-- Around each 8-bit code there is room for an error of 9.01 units in LIN16. -/
theorem gammaLut_room : ∀ v < 256,
    (1 ≤ v → (100 * gammaLut[v]?.getD 0 + 801) * fixOne < 6553500 * eotfFix ⟨v, 255⟩)
    ∧ (v < 255 → 6553500 * (eotfFix ⟨v, 255⟩ + 1) + 901 * fixOne < 100 * gammaLut[v + 1]?.getD 0 * fixOne) := by
  decide +kernel

/-- A value within 9.01 units of the linear light of a code has that code. -/
theorem gammaEncode_of_close {v u : ℕ} (hv : v ≤ 255) (h : |(u : ℝ) - 65535 * refEotf (v / 255)| ≤ 9.01) :
    gammaEncode u = v := by
  obtain ⟨below, above⟩ := gammaLut_room v (by omega)
  have hfloor : eotfFix ⟨v, 255⟩ = ⌊fixOne * refEotf (v / (255 : ℕ))⌋₊ := eotfFix_eq_floor (by norm_num) hv
  have hy : 0 ≤ refEotf (v / 255) := refEotf_nonneg (by positivity)
  have floor_le := Nat.floor_le (mul_nonneg fixOne_pos.le hy)
  have lt_floor := Nat.lt_floor_add_one (fixOne * refEotf (v / 255))
  push_cast at hfloor
  rw [← hfloor] at floor_le lt_floor
  obtain ⟨hlow, hhigh⟩ := abs_le.mp h
  generalize refEotf (v / 255) = y at *
  refine gammaEncode_eq hv ?_ fun hlt => ?_
  · obtain rfl | hpos := Nat.eq_zero_or_pos v
    · exact Nat.zero_le u
    · have below' : ((100 * gammaLut[v]?.getD 0 + 801 : ℕ) : ℝ) * fixOne < 6553500 * eotfFix ⟨v, 255⟩ := by
        exact_mod_cast below hpos
      have : ((100 * gammaLut[v]?.getD 0 + 801 : ℕ) : ℝ) < 6553500 * y := by
        refine lt_of_mul_lt_mul_right (a := (fixOne : ℝ)) ?_ fixOne_pos.le
        linarith
      have : ((gammaLut[v]?.getD 0 : ℕ) : ℝ) < u + 1 := by
        push_cast at this
        linarith
      exact Nat.lt_succ_iff.mp (by exact_mod_cast this)
  · have above' : (6553500 * (eotfFix ⟨v, 255⟩ + 1) + 901 * fixOne : ℝ) <
        100 * (gammaLut[v + 1]?.getD 0 : ℕ) * fixOne := by
      exact_mod_cast above hlt
    have : 6553500 * y + 901 < 100 * (gammaLut[v + 1]?.getD 0 : ℕ) := by
      refine lt_of_mul_lt_mul_right (a := (fixOne : ℝ)) ?_ fixOne_pos.le
      linarith
    have : (u : ℝ) < (gammaLut[v + 1]?.getD 0 : ℕ) := by linarith
    exact_mod_cast this

/-- LIN16 is at most the larger end of its range, also where the range is empty. -/
theorem lin16_le_max (c : Config) (k : ℕ) (ch : Channel) : lin16 c k ch ≤ max (lin16Low c k ch) (lin16High c k ch) := by
  have hlt : Config.freeLin16 c k ch % lin16Count c k ch < lin16Count c k ch :=
    Nat.mod_lt _ (Nat.lt_of_lt_of_le Nat.one_pos (Nat.le_max_left _ _))
  have hcount : lin16Count c k ch = max 1 (lin16High c k ch + 1 - lin16Low c k ch) := rfl
  unfold lin16
  omega

/-- LIN16 is within 9 units of the fixed-point reference, for every legal COLOR_EPS and free choice. -/
theorem lin16_close {c : Config} (hl : c.legal = true) (k : ℕ) (ch : Channel) :
    |(lin16 c k ch : ℤ) * fixOne - refScaledFix c k ch| ≤ 9 * fixOne := by
  have heps := (Config.ranges_of_legal hl).colorEps
  have low_le := lin16Low_le c k ch
  have le_max := lin16_le_max c k ch
  have hpos : 0 ≤ refScaledFix c k ch := mul_nonneg (by norm_num) (le_max_left _ _)
  have hF : (fixOne : ℤ) = 10 ^ 40 := by norm_num [fixOne]
  unfold lin16Low at low_le le_max
  unfold lin16High at le_max
  simp only [hF] at low_le le_max ⊢
  generalize refScaledFix c k ch = S at *
  rw [abs_le]
  constructor <;> omega

/-- The code of a channel. -/
def pixelChannel (p : Pixel) : Channel → Byte
  | .r => p.r
  | .g => p.g
  | .b => p.b

theorem pixelOfLin_eq {lin : Channel → ℕ} {p : Pixel} (h : ∀ ch, gammaEncode (lin ch) = (pixelChannel p ch).toNat) :
    pixelOfLin lin = p := by
  have hr := h .r
  have hg := h .g
  have hb := h .b
  simp only [pixelChannel] at hr hg hb
  rw [pixelOfLin, hr, hg, hb]
  simp

/-- A base colour of 8-bit codes as real numbers. -/
theorem refBase_of_codes {c : Config} {p : Pixel} (hl : c.legal = true) (hr : c.baseR.isCode p.r)
    (hg : c.baseG.isCode p.g) (hb : c.baseB.isCode p.b) (ch : Channel) :
    refBase c (Channel.index ch) = (pixelChannel p ch).toNat / 255 := by
  have code {f : Frac} {v : Byte} (hf : Config.fracInUnit f = true) (h : f.isCode v) :
      (f.num / f.den : ℝ) = v.toNat / 255 := by
    simp only [Config.fracInUnit, Bool.and_eq_true, decide_eq_true_eq] at hf
    have hd : (f.den : ℝ) ≠ 0 := by exact_mod_cast hf.1.ne'
    rw [div_eq_div_iff hd (by norm_num)]
    exact_mod_cast h
  obtain ⟨ur, ug, ub⟩ := fracInUnit_of_legal hl
  cases ch
  · exact code ur hr
  · exact code ug hg
  · exact code ub hb

theorem Near.clampFix {e : ℕ} {z : ℤ} {x : ℝ} (h : Near e z x) (h0 : 0 ≤ x) (h1 : x ≤ 1) :
    Near e (Machine.clampFix z) x := by
  have hx : (fixOne : ℝ) * x = max 0 (min (fixOne : ℝ) (fixOne * x)) := by
    rw [min_eq_right (by nlinarith [fixOne_pos]), max_eq_right (by nlinarith [fixOne_pos])]
  unfold Near at *
  rw [clampFix_cast, hx]
  rw [max_comm 0, max_comm 0, min_comm, min_comm (fixOne : ℝ)]
  exact (abs_max_sub_max_le_abs _ _ _).trans 
    ((abs_min_sub_min_le_max _ _ _ _).trans (by simpa using h))

/-- Where the fixed-point reference is right, LIN16 is near the real one. -/
theorem lin16_close_of_near {c : Config} {k : ℕ} {ch : Channel} {x : ℝ} (hl : c.legal = true)
    (h : Near 200 ((refLinFix c k).channel ch) x) (h0 : 0 ≤ x) (h1 : x ≤ 1) :
    |(lin16 c k ch : ℝ) - 65535 * x| ≤ 9.01 := by
  have near : Near (65535 * 200) (refScaledFix c k ch) (65535 * x) := by
    simpa [refScaledFix] using (h.clampFix h0 h1).const_mul 65535
  have close : |(lin16 c k ch : ℝ) * fixOne - refScaledFix c k ch| ≤ 9 * fixOne := by
    exact_mod_cast lin16_close hl k ch
  have far : (100 * (65535 * 200) : ℝ) ≤ fixOne := by norm_num [fixOne]
  have scaled : |(lin16 c k ch : ℝ) - 65535 * x| * fixOne ≤ 9.01 * fixOne := by
    calc |(lin16 c k ch : ℝ) - 65535 * x| * fixOne
        = |(lin16 c k ch : ℝ) * fixOne - fixOne * (65535 * x)| := by
          rw [← abs_of_pos fixOne_pos, ← abs_mul, abs_of_pos fixOne_pos]; ring_nf
      _ ≤ 9 * fixOne + (65535 * 200 : ℕ) := (abs_sub_le _ _ _).trans (add_le_add close near)
      _ ≤ 9.01 * fixOne := by push_cast; linarith
  exact le_of_mul_le_mul_right scaled fixOne_pos

/-- The linear light of an 8-bit code is in the unit interval. -/
theorem refEotf_code_unit (v : Byte) : 0 ≤ refEotf (v.toNat / 255) ∧ refEotf (v.toNat / 255) ≤ 1 := by
  have hv : (v.toNat : ℝ) ≤ 255 := by exact_mod_cast (by omega : v.toNat ≤ 255)
  exact ⟨refEotf_nonneg (by positivity), refEotf_le_one (by positivity) ((div_le_one (by norm_num)).mpr hv)⟩

end Sys2Proof.Machine

namespace Sys2Proof.Claims

open Sys2Proof.Machine

/-- Settles O60: the stages cancel, and what is within COLOR_EPS of the linear light of a code has that code; the
model's own choice is as near. -/
theorem undarkenedBaseRoundTrips : Obligations.UndarkenedBaseRoundTrips := by
  intro c hone hden
  have hlin := refLin_zero hone hden
  refine ⟨fun i => by rw [hlin], fun p hl hr hg hb => ?_⟩
  have hbase (ch : Channel) : refLin c 0 (Channel.index ch) = refEotf ((pixelChannel p ch).toNat / 255) := by
    rw [hlin, ← refBase_of_codes hl hr hg hb]
  refine ⟨fun lin hadmitted => pixelOfLin_eq fun ch => gammaEncode_of_close (by omega) ?_,
    pixelOfLin_eq fun ch => gammaEncode_of_close (by omega) ?_⟩
  · obtain ⟨h0, h1⟩ := refEotf_code_unit (pixelChannel p ch)
    have heps : (c.colorEps : ℝ) ≤ 9 := by exact_mod_cast (Config.ranges_of_legal hl).colorEps
    have hclose := (hadmitted ch).2
    rw [refClamped, hbase, min_eq_right h1, max_eq_right h0] at hclose
    linarith
  · obtain ⟨h0, h1⟩ := refEotf_code_unit (pixelChannel p ch)
    have near := (near_refLinFix_zero hone hden hl).channel ch
    exact lin16_close_of_near hl (near.of_eq (by rw [← hbase, hlin])) h0 h1

end Sys2Proof.Claims
end
